-- ==== Sys2Proof/Word.lean ====
section
/-! DEFINITION. The word types of the codec: bytes, 16-bit fields and 32-bit registers (00_scope.md §6). -/

namespace Sys2Proof

/-- A byte of the wire, of `BUF`, of a sync pair. -/
abbrev Byte := BitVec 8

/-- A 16-bit field: a device ID, an opcode, a response code, a checksum (R303, R305). -/
abbrev Half := BitVec 16

/-- A 32-bit word of the host bus, and a 32-bit register (R200). -/
abbrev Word := BitVec 32

end Sys2Proof
end

