-- ==== Sys2Proof/Ports.lean ====
section
/-! DEFINITION. The ports of the codec as plain data (R100): what the agents present in one cycle, and what the codec
drives in it. -/

namespace Sys2Proof

/-- The host bus inputs of one cycle (R100): `bus_en`, `bus_we`, `bus_addr`, `bus_wdata`. -/
structure BusIn where
  en    : Bool
  we    : Bool
  addr  : BitVec 13
  wdata : Word
  deriving DecidableEq, Repr, Inhabited

/-- No host access in this cycle. -/
def BusIn.idle : BusIn := { en := false, we := false, addr := 0, wdata := 0 }

/-- A host read of the word at `addr` (R210). -/
def BusIn.read (addr : BitVec 13) : BusIn := { en := true, we := false, addr := addr, wdata := 0 }

/-- A host write of `v` to the word at `addr` (R211). -/
def BusIn.write (addr : BitVec 13) (v : Word) : BusIn := { en := true, we := true, addr := addr, wdata := v }

/-- What the agents of R5 present in one cycle. The receive transport is given by the bytes that arrive at it
(`rxArrive`) and by whether it offers its oldest byte in this cycle (`rxOffer`): R101 fixes that what it offers is the
oldest byte not consumed. -/
structure CycleIn where
  rst      : Bool
  bus      : BusIn
  txReady  : Bool
  rxArrive : List Byte
  rxOffer  : Bool
  tick     : Bool
  deriving DecidableEq, Repr, Inhabited

/-- A cycle in which no agent presents anything. -/
def CycleIn.quiet : CycleIn :=
  { rst := false, bus := BusIn.idle, txReady := false, rxArrive := [], rxOffer := false, tick := false }

/-- What the codec drives on its output ports in one cycle (R100, R102, R210). -/
structure CycleOut where
  busRdata  : Word
  txValid   : Bool
  txData    : Byte
  rxReady   : Bool
  sinkValid : Bool
  sinkData  : Byte
  deriving DecidableEq, Repr, Inhabited

/-- Every output 0: what R800 forces in a cycle with `rst` = 1. -/
def CycleOut.zero : CycleOut :=
  { busRdata := 0, txValid := false, txData := 0, rxReady := false, sinkValid := false, sinkData := 0 }

end Sys2Proof
end

