-- ==== Sys2Proof/Syntax.lean ====
section
/-! DEFINITION. The commands: one constructor per row of spec/opcode_table.json. No row has an operand in its word
(R320: operands are registers, read at acceptance). -/

namespace Sys2Proof

/-- A host command: a write of `CTRL` (R320), or the write of `STATUS` that clears `REJ` (R620). -/
inductive Instr where
  /-- `CMD` = 000, R601. -/
  | nop
  /-- `CMD` = 001, R400. -/
  | encode
  /-- `CMD` = 010, R500. -/
  | readResp
  /-- `CMD` = 011, R550. -/
  | readDataBuf
  /-- `CMD` = 100, R551. -/
  | readDataStream
  /-- `CMD` = 101, reserved, R605. -/
  | reserved5
  /-- `CMD` = 110, reserved, R605. -/
  | reserved6
  /-- `CMD` = 111, reserved, R605. -/
  | reserved7
  /-- A write of `STATUS` with bit 8 set, R620. -/
  | clrRej
  deriving DecidableEq, Repr

end Sys2Proof
end

