-- ==== Sys2Proof/Decode.lean ====
section
/-! DEFINITION. From a host bus access to the command it is, or the named reason why it is none (R200, R201, R211,
R320, R620); and back. Total on every access. -/

namespace Sys2Proof

/-! ### The host bus space (R200, R201, R110) -/

/-- The registers of R110. -/
inductive Reg where
  | ctrl | status | encOpcode | encParam | decLen | respParam | respCode | decCount
  | cfgDevid | cfgCmdSync | cfgRespSync | cfgDataSync | cfgTimeout
  deriving DecidableEq, Repr

/-- What a word of the host bus space is (R201). -/
inductive Place where
  /-- A register of R110. -/
  | reg (r : Reg)
  /-- A reserved word of the register region. -/
  | reserved
  /-- Word `k` of the `BUF` window (R202). -/
  | bufWord (k : Nat)
  deriving DecidableEq, Repr

/-- The byte offset of a register (R110). -/
def Reg.offset : Reg → BitVec 13
  | .ctrl => 0x000
  | .status => 0x004
  | .encOpcode => 0x008
  | .encParam => 0x00C
  | .decLen => 0x010
  | .respParam => 0x014
  | .respCode => 0x018
  | .decCount => 0x01C
  | .cfgDevid => 0x020
  | .cfgCmdSync => 0x024
  | .cfgRespSync => 0x028
  | .cfgDataSync => 0x02C
  | .cfgTimeout => 0x030

/-- The word a byte address names: `bus_addr[12:2]`; bits [1:0] are ignored (R200). -/
def wordIndex (addr : BitVec 13) : BitVec 11 := addr.extractLsb' 2 11

/-- The place at a word of the register region (R110). -/
def registerAt : Nat → Place
  | 0 => .reg .ctrl
  | 1 => .reg .status
  | 2 => .reg .encOpcode
  | 3 => .reg .encParam
  | 4 => .reg .decLen
  | 5 => .reg .respParam
  | 6 => .reg .respCode
  | 7 => .reg .decCount
  | 8 => .reg .cfgDevid
  | 9 => .reg .cfgCmdSync
  | 10 => .reg .cfgRespSync
  | 11 => .reg .cfgDataSync
  | 12 => .reg .cfgTimeout
  | _ => .reserved

/-- What stands at a byte address (R201): the `BUF` window from word 0x400 on, registers below. -/
def place (addr : BitVec 13) : Place :=
  let w := (wordIndex addr).toNat
  if 0x400 ≤ w then .bufWord (w - 0x400) else registerAt w

/-! ### Decoding -/

/-- Why a host access is no command. -/
inductive NoCommand where
  /-- `bus_en` = 0: the host performs no access. -/
  | noAccess
  /-- A read: it has no effect on any state (R210). -/
  | readAccess
  /-- A write of `STATUS` with bit 8 = 0: it does nothing (R620). -/
  | statusWithoutClear
  /-- A write of another place: it stores a value, or is ignored (R211). -/
  | otherPlace
  deriving DecidableEq, Repr

/-- The command a `CMD` field selects (R320). -/
def instrOfCmd (cmd : BitVec 3) : Instr :=
  match cmd.getLsbD 2, cmd.getLsbD 1, cmd.getLsbD 0 with
  | false, false, false => .nop
  | false, false, true  => .encode
  | false, true,  false => .readResp
  | false, true,  true  => .readDataBuf
  | true,  false, false => .readDataStream
  | true,  false, true  => .reserved5
  | true,  true,  false => .reserved6
  | true,  true,  true  => .reserved7

/-- The `CMD` field of a word written to `CTRL`: `bus_wdata[2:0]` (R320). -/
def cmdField (v : Word) : BitVec 3 := v.extractLsb' 0 3

/-- The command a host access is, or why it is none (R211, R320, R620). -/
def decode (b : BusIn) : Except NoCommand Instr :=
  if b.en = false then .error .noAccess
  else if b.we = false then .error .readAccess
  else match place b.addr with
    | .reg .ctrl => .ok (instrOfCmd (cmdField b.wdata))
    | .reg .status => if b.wdata.getLsbD 8 then .ok .clrRej else .error .statusWithoutClear
    | _ => .error .otherPlace

/-! ### Encoding -/

/-- The `CMD` code of a command written to `CTRL` (R320); none for the `STATUS` write. -/
def cmdCode : Instr → Option (BitVec 3)
  | .nop => some 0b000
  | .encode => some 0b001
  | .readResp => some 0b010
  | .readDataBuf => some 0b011
  | .readDataStream => some 0b100
  | .reserved5 => some 0b101
  | .reserved6 => some 0b110
  | .reserved7 => some 0b111
  | .clrRej => none

/-- The host write that is command `i`, with every bit the codec ignores taken from `alow` (address bits [1:0], R200)
and `junk` (bits [31:3] of a `CTRL` write, R321; every bit but 8 of a `STATUS` write, R620). -/
def encodeWith (i : Instr) (alow : BitVec 2) (junk : Word) : BusIn :=
  match cmdCode i with
  | some c => BusIn.write (wordIndex Reg.ctrl.offset ++ alow) (junk.extractLsb' 3 29 ++ c)
  | none => BusIn.write (wordIndex Reg.status.offset ++ alow) (junk ||| 0x100#32)

/-- The host write that is command `i`, with 0 in every ignored bit (R340's spellings). -/
def encode (i : Instr) : BusIn := encodeWith i 0 0

/-! ### The words of spec/opcode_table.json -/

/-- The host write a word of the opcode table stands for. The table gives a row's data word and, in its "format", the
offset it is written to, which no bit of the word shows. DESIGN CHOICE (log 9): the word 0x00000100, the `clr_rej` of R340,
is written to `STATUS`; every other word is written to `CTRL`. -/
def tableWrite (w : Word) : BusIn :=
  BusIn.write (if w = 0x100 then Reg.status.offset else Reg.ctrl.offset) w

/-- The command the decoder reads from a word of the opcode table; a bus word has 32 bits, and bits from `nbits` on are 0. -/
def decodeTableWord (nbits w : Nat) : Option Instr :=
  if nbits ≤ 32 then (decode (tableWrite (BitVec.ofNat 32 (w % 2 ^ nbits)))).toOption else none

end Sys2Proof
end

