-- ==== Sys2Proof/Config.lean ====
section
/-! DEFINITION. What an implementation fixes (the six parameters of R3) and the free values (U1, U3, R5). Every OPEN
value is an opaque constant: nothing in Lean can evaluate it. -/

namespace Sys2Proof

/-- A sync pair (R121): `s1` is sent or expected first. -/
structure SyncPair where
  s1 : Byte
  s2 : Byte
  deriving DecidableEq, Repr, Inhabited

/-- The six parameters of R3, arguments of the model. No rule reads `tickPeriod` (D46). -/
structure Params where
  /-- `P_BUF_BYTES`, the capacity of the payload buffer, 24 to 4096. -/
  bufBytes   : Nat
  /-- `P_CMD_SYNC_RST`. -/
  cmdSyncRst : SyncPair
  /-- `P_RESP_SYNC_RST`, the reset value of `CFG_RESP_SYNC` and of `CFG_DATA_SYNC`. -/
  respSyncRst : SyncPair
  /-- `P_DEVID_RST`. -/
  devidRst   : Half
  /-- `P_TIMEOUT_RST`, in ticks. -/
  timeoutRst : Word
  /-- `P_TICK`, the real-time period of a tick. -/
  tickPeriod : Nat
  deriving DecidableEq, Repr

/-! ### The OPEN parameters of the machine State.reset stands for (log 3) -/

/-- OPEN: `P_BUF_BYTES` is 24 plus this, so that every legal capacity, 24 to 4096, is possible and no other (R3). -/
opaque Config.bufBytesAbove24 : Fin 4073
/-- OPEN: `P_CMD_SYNC_RST` (D42). -/
opaque Config.cmdSyncRst : SyncPair
/-- OPEN: `P_RESP_SYNC_RST` (D43). -/
opaque Config.respSyncRst : SyncPair
/-- OPEN: `P_DEVID_RST` (D44). -/
opaque Config.devidRst : BitVec 16
/-- OPEN: `P_TIMEOUT_RST` (D45). -/
opaque Config.timeoutRst : BitVec 32
/-- OPEN: `P_TICK` (D46). -/
opaque Config.tickPeriod : Nat

/-- The six OPEN parameters together. -/
def Config.params : Params :=
  { bufBytes := 24 + Config.bufBytesAbove24.val
    cmdSyncRst := Config.cmdSyncRst
    respSyncRst := Config.respSyncRst
    devidRst := Config.devidRst
    timeoutRst := Config.timeoutRst
    tickPeriod := Config.tickPeriod }

/-! ### Free values -/

/-- FREE: what byte `i` of `BUF` holds from power-up until a `READ_DATA_BUF` writes it (U3, R132; log 4). -/
opaque Config.bufPowerUp : Nat → BitVec 8
/-- FREE: what `RESP_PARAM` holds after the n-th `READ_RESP` that ended with TIMEOUT (U1, R515; log 5). -/
opaque Config.freeRespParam : Nat → BitVec 32
/-- FREE: what `RESP_CODE` holds after the n-th `READ_RESP` that ended with TIMEOUT (U1, R515; log 5). -/
opaque Config.freeRespCode : Nat → BitVec 16
/-- FREE: what the agents present in cycle `n` when State lists no input for it (R5; log 1). -/
opaque Config.freeInput : Nat → CycleIn

end Sys2Proof
end

