-- ==== Sys2Proof/WellFormed.lean ====
section
/-! DEFINITION. What is checked before it is used: the range of `P_BUF_BYTES` (R3). A command has no operand, so every
term of `Instr` is well-formed: there is nothing to check on it (R320). -/

namespace Sys2Proof

/-- The legal parameters (00_scope.md §4): `P_BUF_BYTES` is 24 to 4096; every value of the others is legal. -/
abbrev Params.wf (p : Params) : Prop := 24 ≤ p.bufBytes ∧ p.bufBytes ≤ 4096

end Sys2Proof
end

