-- ==== Sys2Proof/Machine/State.lean ====
section
/-! DEFINITION. The state of the codec and of the agents around it (R112 to R133, R5, R101), as plain data; how a step
can stop; and the state right after reset (R800, R801). -/

namespace Sys2Proof.Machine

/-! ### Named values (R330 to R332) -/

/-- `dec_state` (R331). Its encodings 5 to 7 are never held, so they are no values here (U7; log 7). -/
inductive DecState where
  | idle | seek | devid | payload | cksum
  deriving DecidableEq, Repr

/-- `dec_mode` (R332): the mode of the last accepted read command. -/
inductive DecMode where
  | none | resp | dbuf | dstream
  deriving DecidableEq, Repr

/-- `dec_result` (R330). Its encodings 4 to 7 are never produced, so they are no values here (U7; log 7). -/
inductive DecResult where
  | none | ok | timeout | badlen
  deriving DecidableEq, Repr

/-! ### The units and the registers -/

/-- The encoder's state (R130). `idx` is a 4-bit index that holds 0 to 11. -/
structure Encoder where
  busy  : Bool
  done  : Bool
  frame : Vector Byte 12
  idx   : Fin 12
  deriving DecidableEq, Repr

/-- The decoder's state (R131) with the registers only it writes: `DEC_COUNT` (R119), `RESP_PARAM` (R117) and
`RESP_CODE` (R118). -/
structure Decoder where
  state    : DecState
  mode     : DecMode
  done     : Bool
  result   : DecResult
  /-- The latched sync pair, device ID, timeout and payload length. -/
  lS1      : Byte
  lS2      : Byte
  lDevid   : Half
  lTimeout : Word
  lLen     : Word
  /-- The header shift register: bits [15:8] the older byte. -/
  sr       : Half
  srFill   : BitVec 2
  idx      : Word
  tmp      : Byte
  acc      : Half
  /-- The silence counter (R740). -/
  sc       : Word
  count    : Word
  respParam : Word
  respCode : Half
  deriving DecidableEq, Repr

/-- The sink output register (R133): `sink_v`, `sink_d`. -/
structure SinkReg where
  valid : Bool
  data  : Byte
  deriving DecidableEq, Repr

/-- The registers the host writes (R114 to R116, R120 to R122). -/
structure HostRegs where
  encOpcode   : Half
  encParam    : Word
  decLen      : Word
  cfgDevid    : Half
  cfgCmdSync  : SyncPair
  cfgRespSync : SyncPair
  cfgDataSync : SyncPair
  cfgTimeout  : Word
  deriving DecidableEq, Repr

/-- The agents outside the codec (R5): the MODEL's own fields (log 1, 10, 11). -/
structure Env where
  /-- The inputs of the coming cycles, the next cycle's first; past the list they are free (log 1). -/
  schedule  : List CycleIn
  /-- How many cycles have run; it indexes the free inputs. -/
  cycle     : Nat
  /-- The receive transport's bytes not yet consumed, oldest first (R101, R134). -/
  rxQueue   : List Byte
  /-- The bytes the transmit transport has taken, oldest first. -/
  txTaken   : List Byte
  /-- The bytes presented to the sink, oldest first. -/
  sinkSeen  : List Byte
  /-- The words the host's reads have returned, oldest first. -/
  hostReads : List Word
  /-- The output ports' values in the last cycle. -/
  out       : CycleOut
  deriving DecidableEq, Repr

/-- The whole machine. `buf` lists the bytes of `BUF` written since power-up, by index (R132; log 4); `draws` counts the
free `RESP_*` values drawn so far (R515; log 5); `params` are the arguments of R3, which no step changes. -/
structure State where
  enc    : Encoder
  dec    : Decoder
  sink   : SinkReg
  regs   : HostRegs
  rej    : Bool
  buf    : List Host.Cell
  draws  : Nat
  env    : Env
  params : Params
  deriving DecidableEq, Repr

/-! ### How a step can stop -/

/-- The codec has no fault (R700). Each of these stands for contents of the state to which the rules give no meaning,
since no run reaches them; an invariant proves so (Safety.lean). -/
inductive Fault where
  /-- The decoder consumes a byte in DEVID or CKSUM with `idx` above 1, or in the payload of a `READ_RESP` with `idx` above 5
  (R465, R466, R470, R471, R510 give only the lower values). Raised by the decoder's cycle. Safe (log 7). -/
  | idxOutOfRange
  /-- The decoder consumes a payload byte in `dec_mode` NONE, which no rule delivers (R332, R468). Raised by the decoder's
  cycle. Safe (log 7). -/
  | payloadWithoutMode
  /-- The decoder consumes a payload byte of a `READ_DATA_BUF` with `idx` at or above `P_BUF_BYTES`, where `BUF` has no byte
  (R560: "always < P_BUF_BYTES"). Raised by the decoder's cycle. Safe (log 7). -/
  | bufIdxOutOfRange
  deriving DecidableEq, Repr

/-- A command without a meaning. No arm of `exec` raises it: every command of the table has its meaning. -/
inductive Refusal where
  /-- Raised only by an arm of `exec` for a command not modelled yet: none is left. Safe. -/
  | notModelled (mnemonic : String)
  deriving DecidableEq, Repr

/-! ### Reset values (R112 to R122, R130, R131, R801) -/

/-- R130's reset column. -/
def Encoder.reset : Encoder := { busy := false, done := false, frame := Vector.replicate 12 0, idx := 0 }

/-- R131's reset column, with R117 to R119. -/
def Decoder.reset : Decoder :=
  { state := .idle, mode := .none, done := false, result := .none
    lS1 := 0, lS2 := 0, lDevid := 0, lTimeout := 0, lLen := 0
    sr := 0, srFill := 0, idx := 0, tmp := 0, acc := 0, sc := 0
    count := 0, respParam := 0, respCode := 0 }

/-- The sink register after reset, and in every cycle after one that delivered no byte (R571). -/
def SinkReg.empty : SinkReg := { valid := false, data := 0 }

/-- The reset columns of R114 to R116 and R120 to R122; `CFG_DATA_SYNC` takes the response pair's value (C1). -/
def HostRegs.reset (p : Params) : HostRegs :=
  { encOpcode := 0, encParam := 0, decLen := 0
    cfgDevid := p.devidRst
    cfgCmdSync := p.cmdSyncRst
    cfgRespSync := p.respSyncRst
    cfgDataSync := p.respSyncRst
    cfgTimeout := p.timeoutRst }

/-- The agents before the first cycle: nothing listed, nothing transported (DESIGN CHOICE, log 14); the outputs are the
reset cycle's (R800). -/
def Env.start : Env :=
  { schedule := [], cycle := 0, rxQueue := [], txTaken := [], sinkSeen := [], hostReads := [], out := CycleOut.zero }

/-- The machine right after its first reset, built with parameters `p` (R3, R801). -/
def State.resetWith (p : Params) : State :=
  { enc := Encoder.reset, dec := Decoder.reset, sink := SinkReg.empty, regs := HostRegs.reset p, rej := false
    buf := [], draws := 0, env := Env.start, params := p }

/-- The machine right after reset (R801), with the OPEN parameters of Config (log 3). -/
def State.reset : State := State.resetWith Config.params

end Sys2Proof.Machine
end

