-- ==== Sys2Proof/Machine/Ops.lean ====
section
/-! DEFINITION. The named operations every meaning is written over: `BUF`'s memory, byte order and the checksum, and the
actions the rules name (reject, start a read, resynchronise, finish). The codec has no exception to take and none to return
from (R700, R711): `finish` (R480) and the encoder's completion (R411) are its analogue (R710). -/

namespace Sys2Proof.Machine

/-! ### The memory of `BUF`: (index, byte) pairs, indexes strictly rising (R132) -/

/-- The canonical form: indexes strictly rising. An unlisted index reads as "not written" (none), which no entry equals. -/
abbrev Memory.wf (m : List Host.Cell) : Prop := m.Pairwise (fun a b => a.1 < b.1)

/-- The byte written at index `i`, if one was written since power-up. -/
def Memory.lookup : List Host.Cell → Nat → Option Byte
  | [], _ => none
  | (j, b) :: m, i => if i = j then some b else Memory.lookup m i

/-- Write byte `b` at index `i`, keeping the canonical form. -/
def Memory.store : List Host.Cell → Nat → Byte → List Host.Cell
  | [], i, b => [(i, b)]
  | (j, c) :: m, i, b =>
    if i < j then (i, b) :: (j, c) :: m
    else if i = j then (i, b) :: m
    else (j, c) :: Memory.store m i b

/-- `B(i)` of R202: byte `i` of `BUF` below `P_BUF_BYTES`, 0 from there on. A byte of `BUF` not written since power-up is the
free value drawn for it at power-up (U3; log 4). -/
def bufByte (s : State) (i : Nat) : Byte :=
  if i < s.params.bufBytes then (Memory.lookup s.buf i).getD (Config.bufPowerUp i) else 0

/-! ### Bytes and the checksum -/

/-- Byte `i` of a value, byte 0 holding bits [7:0] (R220). -/
def byteOf {n : Nat} (v : BitVec n) (i : Nat) : Byte := v.extractLsb' (8 * i) 8

/-- `v` with byte `i` replaced by `b`, every other bit kept (R510). -/
def setByte {n : Nat} (v : BitVec n) (i : Nat) (b : Byte) : BitVec n :=
  (v &&& ~~~((0xFF#n) <<< (8 * i))) ||| ((b.setWidth n) <<< (8 * i))

/-- `sum16` (00_scope.md §6, R303): the sum of the bytes modulo 2^16. -/
def sum16 (bs : List Byte) : Half := bs.foldl (fun acc b => acc + b.setWidth 16) 0

/-! ### The named actions of the rules -/

/-- Rejecting a command: `rej <- 1`, every other state unchanged (R605, R610). -/
def reject (s : State) : State := { s with rej := true }

/-- `DEC_BUSY` (R113): `dec_state != IDLE`. -/
def Decoder.busy (d : Decoder) : Bool := decide (d.state ≠ .idle)

/-- `StartRead(m, SYNC, len)` (R452). `RESP_PARAM`, `RESP_CODE`, `tmp` and `acc` keep their values. -/
def startRead (m : DecMode) (sync : SyncPair) (len : Word) (s : State) : State :=
  { s with dec := { s.dec with
      mode := m, done := false, result := .none
      lS1 := sync.s1, lS2 := sync.s2
      lDevid := s.regs.cfgDevid, lTimeout := s.regs.cfgTimeout, lLen := len
      count := 0, sc := 0, sr := 0, srFill := 0, idx := 0
      state := .seek } }

/-- `resync()` (R475). -/
def Decoder.resync (d : Decoder) : Decoder := { d with state := .seek, sr := 0, srFill := 0, idx := 0 }

/-- `finish(r)` (R480). -/
def Decoder.finish (r : DecResult) (d : Decoder) : Decoder := { d with state := .idle, done := true, result := r }

end Sys2Proof.Machine
end

