-- ==== Sys2Proof/Machine/Control.lean ====
section
/-! DEFINITION. The control family: `NOP` (R601), the reserved commands (R605), the `REJ` clear (R620). -/

namespace Sys2Proof.Machine

/-- `NOP`: changes nothing, `REJ` is not set (R601). -/
def execNop (s : State) : Host.Outcome State Fault Refusal := .next s

/-- `CMD` = 101: `rej <- 1`, nothing else (R605). -/
def execReserved5 (s : State) : Host.Outcome State Fault Refusal := .next (reject s)

/-- `CMD` = 110: `rej <- 1`, nothing else (R605). -/
def execReserved6 (s : State) : Host.Outcome State Fault Refusal := .next (reject s)

/-- `CMD` = 111: `rej <- 1`, nothing else (R605). -/
def execReserved7 (s : State) : Host.Outcome State Fault Refusal := .next (reject s)

/-- The write of `STATUS` with bit 8 set: `rej <- 0` (R620). -/
def execClrRej (s : State) : Host.Outcome State Fault Refusal := .next { s with rej := false }

end Sys2Proof.Machine
end

