-- ==== Sys2Proof/Machine/Operands.lean ====
section
/-! DEFINITION. Operand forms: a command's operands are registers (R320). The command packet assembled from them (R400),
and the two-byte values the decoder assembles from received bytes (R305). -/

namespace Sys2Proof.Machine

/-- Bytes 0 to 9 of the command packet (R300, R400), from the registers as they are at the start of the cycle. -/
def commandHead (r : HostRegs) : List Byte :=
  [ r.cfgCmdSync.s1, r.cfgCmdSync.s2
    , byteOf r.cfgDevid 0, byteOf r.cfgDevid 1
    , byteOf r.encParam 0, byteOf r.encParam 1, byteOf r.encParam 2, byteOf r.encParam 3
    , byteOf r.encOpcode 0, byteOf r.encOpcode 1 ]

/-- The 12 bytes of the command packet (R300, R400): the head and its checksum, low byte first. -/
def commandPacket (r : HostRegs) : Vector Byte 12 :=
  let ck := sum16 (commandHead r)
  #v[ r.cfgCmdSync.s1, r.cfgCmdSync.s2
    , byteOf r.cfgDevid 0, byteOf r.cfgDevid 1
    , byteOf r.encParam 0, byteOf r.encParam 1, byteOf r.encParam 2, byteOf r.encParam 3
    , byteOf r.encOpcode 0, byteOf r.encOpcode 1
    , byteOf ck 0, byteOf ck 1 ]

/-- `{hi, lo}`: a 16-bit value from two received bytes, the earlier byte low (R305, R220). -/
def half (hi lo : Byte) : Half := hi ++ lo

end Sys2Proof.Machine
end

