-- ==== Sys2Proof/Machine/Encoder.lean ====
section
/-! DEFINITION. The encoder family: `ENCODE` (R400) and the encoder's part of a cycle (R410 to R412). -/

namespace Sys2Proof.Machine

/-- `ENCODE`: latch the packet and start sending it (R400); rejected while the encoder is busy (R610). -/
def execEncode (s : State) : Host.Outcome State Fault Refusal :=
  if s.enc.busy then .next (reject s)
  else .next { s with enc := { busy := true, done := false, frame := commandPacket s.regs, idx := 0 } }

/-- The encoder's part of a cycle: the byte offered is taken if `tx_ready` (R410); the last one ends the packet (R411); an
idle encoder changes nothing (R412). -/
def encoderCycle (e : Encoder) (txReady : Bool) : Encoder :=
  if e.busy && txReady then
    if e.idx = 11 then { e with busy := false, done := true, idx := 0 }
    else { e with idx := e.idx + 1 }
  else e

end Sys2Proof.Machine
end

