-- ==== Sys2Proof/Machine/Reads.lean ====
section
/-! DEFINITION. The read family: `READ_RESP` (R500), `READ_DATA_BUF` (R550), `READ_DATA_STREAM` (R551). -/

namespace Sys2Proof.Machine

/-- `READ_RESP`: start reading a command response, 6 payload bytes (R500); rejected while the decoder is busy (R610). -/
def execReadResp (s : State) : Host.Outcome State Fault Refusal :=
  if s.dec.busy then .next (reject s)
  else .next (startRead .resp s.regs.cfgRespSync 6 s)

/-- `READ_DATA_BUF`: start reading `DEC_LEN` bytes into `BUF`, or refuse with BADLEN a length above its capacity, every other
state unchanged (R550); rejected while the decoder is busy (R610). -/
def execReadDataBuf (s : State) : Host.Outcome State Fault Refusal :=
  if s.dec.busy then .next (reject s)
  else if s.params.bufBytes < s.regs.decLen.toNat then
    .next { s with dec := { s.dec with mode := .dbuf, done := true, result := .badlen } }
  else .next (startRead .dbuf s.regs.cfgDataSync s.regs.decLen s)

/-- `READ_DATA_STREAM`: start reading `DEC_LEN` bytes to the sink, any length (R551); rejected while the decoder is busy
(R610). -/
def execReadDataStream (s : State) : Host.Outcome State Fault Refusal :=
  if s.dec.busy then .next (reject s)
  else .next (startRead .dstream s.regs.cfgDataSync s.regs.decLen s)

end Sys2Proof.Machine
end

