-- ==== Sys2Proof/Machine/Dispatch.lean ====
section
/-! DEFINITION. The meaning of a command: `Command(cmd)` (R600) and the `REJ` clear (R620), evaluated on the state at the
start of the cycle (R140). Each arm is the command's own effect; the rest of its cycle is Machine/Cycle.lean's. -/

namespace Sys2Proof.Machine

def exec (i : Instr) (s : State) : Host.Outcome State Fault Refusal :=
  match i with
  | .nop => Sys2Proof.Machine.execNop s
  | .encode => Sys2Proof.Machine.execEncode s
  | .readResp => Sys2Proof.Machine.execReadResp s
  | .readDataBuf => Sys2Proof.Machine.execReadDataBuf s
  | .readDataStream => Sys2Proof.Machine.execReadDataStream s
  | .reserved5 => Sys2Proof.Machine.execReserved5 s
  | .reserved6 => Sys2Proof.Machine.execReserved6 s
  | .reserved7 => Sys2Proof.Machine.execReserved7 s
  | .clrRej => Sys2Proof.Machine.execClrRej s

end Sys2Proof.Machine
end

