-- ==== Sys2Proof/Machine/Flags.lean ====
section
/-! DEFINITION. The codec's flags are the `STATUS` bits (R113, R136): the encodings of R330 to R332 and the `STATUS` word. -/

namespace Sys2Proof.Machine

/-- `STATUS.DEC_STATE` (R331). -/
def DecState.code : DecState → BitVec 3
  | .idle => 0
  | .seek => 1
  | .devid => 2
  | .payload => 3
  | .cksum => 4

/-- `STATUS.DEC_MODE` (R332). -/
def DecMode.code : DecMode → BitVec 2
  | .none => 0
  | .resp => 1
  | .dbuf => 2
  | .dstream => 3

/-- `STATUS.DEC_RESULT` (R330). -/
def DecResult.code : DecResult → BitVec 3
  | .none => 0
  | .ok => 1
  | .timeout => 2
  | .badlen => 3

/-- `STATUS_value()` (R210, R113): the fields concatenated, high bits first, widened with zeros. -/
def statusValue (s : State) : Word :=
  (s.dec.mode.code ++ 0#1 ++ s.dec.state.code ++ 0#3 ++ BitVec.ofBool s.rej ++ 0#1 ++ s.dec.result.code
    ++ BitVec.ofBool s.dec.done ++ BitVec.ofBool s.dec.busy ++ BitVec.ofBool s.enc.done
    ++ BitVec.ofBool s.enc.busy).setWidth 32

end Sys2Proof.Machine
end

