-- ==== Sys2Proof/Machine/Bus.lean ====
section
/-! DEFINITION. The host's access of a cycle (R210, R211): what a read returns, what a write stores, and the command a write
may be. -/

namespace Sys2Proof.Machine

/-- The value of a register on the bus (R210): its fields, reserved bits 0 (R111). -/
def registerValue (s : State) : Reg → Word
  | .ctrl => 0
  | .status => statusValue s
  | .encOpcode => s.regs.encOpcode.setWidth 32
  | .encParam => s.regs.encParam
  | .decLen => s.regs.decLen
  | .respParam => s.dec.respParam
  | .respCode => s.dec.respCode.setWidth 32
  | .decCount => s.dec.count
  | .cfgDevid => s.regs.cfgDevid.setWidth 32
  | .cfgCmdSync => (s.regs.cfgCmdSync.s2 ++ s.regs.cfgCmdSync.s1).setWidth 32
  | .cfgRespSync => (s.regs.cfgRespSync.s2 ++ s.regs.cfgRespSync.s1).setWidth 32
  | .cfgDataSync => (s.regs.cfgDataSync.s2 ++ s.regs.cfgDataSync.s1).setWidth 32
  | .cfgTimeout => s.regs.cfgTimeout

/-- Word `k` of the `BUF` window: four bytes, little-endian (R202). -/
def bufWindowWord (s : State) (k : Nat) : Word :=
  bufByte s (4 * k + 3) ++ bufByte s (4 * k + 2) ++ bufByte s (4 * k + 1) ++ bufByte s (4 * k)

/-- `MemRead(addr, 4)` (R210). -/
def memRead (s : State) (addr : BitVec 13) : Word :=
  match place addr with
  | .reg r => registerValue s r
  | .reserved => 0
  | .bufWord k => bufWindowWord s k

/-- `bus_rdata` (R210): the word read, and 0 in a cycle with no read. -/
def busRdata (s : State) (b : BusIn) : Word :=
  if b.en && !b.we then memRead s b.addr else 0

/-- The sync pair a written word gives: `S1` in bits [7:0], `S2` in [15:8] (R121). -/
def syncOf (v : Word) : SyncPair := { s1 := byteOf v 0, s2 := byteOf v 1 }

/-- The register part of `MemWrite` (R211): read/write fields take the word's bits, every other register is unchanged. -/
def writeRegister (r : HostRegs) (v : Word) : Reg → HostRegs
  | .encOpcode => { r with encOpcode := v.setWidth 16 }
  | .encParam => { r with encParam := v }
  | .decLen => { r with decLen := v }
  | .cfgDevid => { r with cfgDevid := v.setWidth 16 }
  | .cfgCmdSync => { r with cfgCmdSync := syncOf v }
  | .cfgRespSync => { r with cfgRespSync := syncOf v }
  | .cfgDataSync => { r with cfgDataSync := syncOf v }
  | .cfgTimeout => { r with cfgTimeout := v }
  | .ctrl => r
  | .status => r
  | .respParam => r
  | .respCode => r
  | .decCount => r

/-- The host registers after an access that is no command (R211): a read, no access, and a write of a reserved word or of the
`BUF` window change nothing. -/
def storeAccess (r : HostRegs) (b : BusIn) : HostRegs :=
  if b.en && b.we then
    match place b.addr with
    | .reg reg => writeRegister r b.wdata reg
    | .reserved => r
    | .bufWord _ => r
  else r

/-- The host's access of a cycle, on the state at its start (R140): a command runs (R600, R620), anything else stores at most
a register. -/
def hostAccess (b : BusIn) (s : State) : Host.Outcome State Fault Refusal :=
  match decode b with
  | .ok i => exec i s
  | .error _ => .next { s with regs := storeAccess s.regs b }

end Sys2Proof.Machine
end

