-- ==== Sys2Proof/Machine/Decoder.lean ====
section
/-! DEFINITION. The decoder's part of a cycle (R455 to R482, R510, R515, R560, R570). -/

namespace Sys2Proof.Machine

/-- What the decoder's part of a cycle leaves: its own state, `BUF`, the byte for the sink (R570) and the draw counter. -/
structure DecoderOut where
  dec   : Decoder
  buf   : List Host.Cell
  sink  : Option Byte
  draws : Nat
  deriving DecidableEq, Repr

/-- The decoder's part of a cycle that writes only the decoder's own state. -/
def onlyDec (s : State) (d : Decoder) : DecoderOut := { dec := d, buf := s.buf, sink := none, draws := s.draws }

/-- SEEK (R460): shift the byte in; a match needs two bytes shifted in since the register was last cleared. -/
def seekByte (d : Decoder) (b : Byte) : Decoder :=
  let sr := half (d.sr.setWidth 8) b
  let fill := min (d.srFill.toNat + 1) 2
  let d := { d with sr := sr, srFill := BitVec.ofNat 2 fill }
  if fill = 2 ∧ sr = half d.lS1 d.lS2 then
    { d with state := .devid, idx := 0, acc := d.lS1.setWidth 16 + d.lS2.setWidth 16 }
  else d

/-- DEVID (R465 to R467): keep the first byte; compare both with the latched device ID. -/
def devidByte (d : Decoder) (b : Byte) : Except Fault Decoder :=
  if d.idx = 0 then .ok { d with tmp := b, idx := 1 }
  else if d.idx = 1 then
    if half b d.tmp ≠ d.lDevid then .ok d.resync
    else .ok { d with
      acc := d.acc + d.tmp.setWidth 16 + b.setWidth 16
      idx := 0, count := 0
      state := if d.lLen = 0 then .cksum else .payload }
  else .error .idxOutOfRange

/-- The part of PAYLOAD common to every mode (R468): add to the checksum, count, and leave after `l_len` bytes. -/
def payloadCount (d : Decoder) (b : Byte) : Decoder :=
  let d := { d with acc := d.acc + b.setWidth 16, count := d.count + 1 }
  if d.idx + 1 = d.lLen then { d with state := .cksum, idx := 0 } else { d with idx := d.idx + 1 }

/-- `Deliver(RESP, idx, b)` (R510): bytes 0 to 3 to `RESP_PARAM`, 4 and 5 to `RESP_CODE`, low byte first. -/
def deliverResp (d : Decoder) (b : Byte) : Except Fault Decoder :=
  let i := d.idx.toNat
  if i ≤ 3 then .ok { d with respParam := setByte d.respParam i b }
  else if i ≤ 5 then .ok { d with respCode := setByte d.respCode (i - 4) b }
  else .error .idxOutOfRange

/-- PAYLOAD (R468) with the mode's delivery: R510, R560 or R570. `d` is the decoder with `sc` already cleared (R455). -/
def payloadByte (s : State) (d : Decoder) (b : Byte) : Except Fault DecoderOut :=
  match d.mode with
  | .none => .error .payloadWithoutMode
  | .resp => do
    let d' ← deliverResp d b
    .ok (onlyDec s (payloadCount d' b))
  | .dbuf =>
    if d.idx.toNat < s.params.bufBytes then
      .ok { onlyDec s (payloadCount d b) with buf := Memory.store s.buf d.idx.toNat b }
    else .error .bufIdxOutOfRange
  | .dstream => .ok { onlyDec s (payloadCount d b) with sink := some b }

/-- CKSUM (R470 to R472): keep the first byte; compare both with `acc`, but never in streaming mode (R572). -/
def cksumByte (d : Decoder) (b : Byte) : Except Fault Decoder :=
  if d.idx = 0 then .ok { d with tmp := b, idx := 1 }
  else if d.idx = 1 then
    if d.mode ≠ .dstream ∧ half b d.tmp ≠ d.acc then .ok d.resync else .ok (d.finish .ok)
  else .error .idxOutOfRange

/-- A cycle with a consumed byte (R455): the silence counter is cleared, then the state's rule applies. -/
def consumeByte (s : State) (b : Byte) : Except Fault DecoderOut :=
  let d := { s.dec with sc := 0 }
  match d.state with
  | .idle => .ok (onlyDec s s.dec)
  | .seek => .ok (onlyDec s (seekByte d b))
  | .devid => (devidByte d b).map (onlyDec s)
  | .payload => payloadByte s d b
  | .cksum => (cksumByte d b).map (onlyDec s)

/-- `finish(TIMEOUT)` (R456, R480). After a `READ_RESP`, `RESP_PARAM` and `RESP_CODE` are unspecified: each is a free value,
drawn here and stable until the decoder next writes it (R515, U1; log 5). -/
def timeoutRead (s : State) : DecoderOut :=
  let d := s.dec.finish .timeout
  if d.mode = .resp then
    { onlyDec s { d with respParam := Config.freeRespParam s.draws, respCode := Config.freeRespCode s.draws } with
      draws := s.draws + 1 }
  else onlyDec s d

/-- A cycle of a running read without a byte (R456): expiry, or one more tick of silence, saturating. -/
def silentCycle (s : State) (tick : Bool) : DecoderOut :=
  if s.dec.lTimeout ≤ s.dec.sc then timeoutRead s
  else if tick then
    onlyDec s { s.dec with sc := BitVec.ofNat 32 (min (s.dec.sc.toNat + 1) (2 ^ 32 - 1)) }
  else onlyDec s s.dec

/-- The decoder's part of a cycle (R455); `rx` is the byte the receive transport offers, if any. An idle decoder consumes
nothing and changes nothing. -/
def decoderCycle (s : State) (rx : Option Byte) (tick : Bool) : Except Fault DecoderOut :=
  if s.dec.busy then
    match rx with
    | some b => consumeByte s b
    | none => .ok (silentCycle s tick)
  else .ok (onlyDec s s.dec)

end Sys2Proof.Machine
end

