-- ==== Sys2Proof/Machine/Cycle.lean ====
section
/-! DEFINITION. One clock cycle (R4, R140, R141, R800): the inputs presented, the ports driven, and the independent parts of
the next state put together. -/

namespace Sys2Proof.Machine

/-- What the agents present in the next cycle: the first listed input, or a free one past the list (R5; log 1). -/
def currentInput (s : State) : CycleIn := s.env.schedule.head?.getD (Config.freeInput s.env.cycle)

/-- The receive transport's bytes in this cycle: those not yet consumed, then the arrivals (R101). -/
def rxHeld (s : State) (inp : CycleIn) : List Byte := s.env.rxQueue ++ inp.rxArrive

/-- `rx_valid` and `rx_data`: the oldest byte held, if the transport offers it (R101). -/
def rxOffered (s : State) (inp : CycleIn) : Option Byte := if inp.rxOffer then (rxHeld s inp).head? else none

/-- The output ports in a cycle with `rst` = 0 (R102, R210): functions of the state at its start, and `bus_rdata` of the
access. -/
def outputs (s : State) (b : BusIn) : CycleOut :=
  { busRdata := busRdata s b
    txValid := s.enc.busy
    txData := if s.enc.busy then s.enc.frame[s.enc.idx] else 0
    rxReady := s.dec.busy
    sinkValid := s.sink.valid
    sinkData := if s.sink.valid then s.sink.data else 0 }

/-- The agents after a cycle with `rst` = 0: what moved on each port (R101, R210, R571; log 11). -/
def envAfter (s : State) (inp : CycleIn) : Env :=
  let out := outputs s inp.bus
  { schedule := s.env.schedule.tail
    cycle := s.env.cycle + 1
    rxQueue := if out.rxReady && (rxOffered s inp).isSome then (rxHeld s inp).tail else rxHeld s inp
    txTaken := if out.txValid && inp.txReady then s.env.txTaken ++ [out.txData] else s.env.txTaken
    sinkSeen := if out.sinkValid then s.env.sinkSeen ++ [out.sinkData] else s.env.sinkSeen
    hostReads := if inp.bus.en && !inp.bus.we then s.env.hostReads ++ [out.busRdata] else s.env.hostReads
    out := out }

/-- The sink register's update (R571). -/
def sinkAfter : Option Byte → SinkReg
  | some b => { valid := true, data := b }
  | none => SinkReg.empty

/-- The end of a cycle (R140, R141): `s` is the state at its start, `u` what the host's access leaves of it, `d` what the
decoder's part leaves. A unit busy at the start takes its own step; one idle at the start has none, and keeps what a command
accepted in this cycle gave it. -/
def assemble (s u : State) (d : DecoderOut) (inp : CycleIn) : State :=
  { u with
    enc := if s.enc.busy then encoderCycle s.enc inp.txReady else u.enc
    dec := if s.dec.busy then d.dec else u.dec
    sink := sinkAfter d.sink
    buf := d.buf
    draws := d.draws
    env := envAfter s inp }

/-- The agents after a cycle with `rst` = 1: every output is 0, so no byte moves and the access is ignored; what arrived
stays with the receive transport (R800, R101). -/
def envAfterReset (s : State) (inp : CycleIn) : Env :=
  { s.env with
    schedule := s.env.schedule.tail
    cycle := s.env.cycle + 1
    rxQueue := rxHeld s inp
    out := CycleOut.zero }

/-- A cycle with `rst` = 1 (R800): every register and every internal state element takes its reset value; `BUF` is not
changed. -/
def resetCycle (s : State) (inp : CycleIn) : State :=
  { s with
    enc := Encoder.reset
    dec := Decoder.reset
    sink := SinkReg.empty
    regs := HostRegs.reset s.params
    rej := false
    env := envAfterReset s inp }

/-- One cycle with the inputs `inp` (R141, R800). -/
def cycle (inp : CycleIn) (s : State) : Host.Outcome State Fault Refusal :=
  if inp.rst then .next (resetCycle s inp)
  else
    match hostAccess inp.bus s with
    | .fault f => .fault f
    | .refused r => .refused r
    | .next u =>
      match decoderCycle s (rxOffered s inp) inp.tick with
      | .error f => .fault f
      | .ok d => .next (assemble s u d inp)

/-- `s` with the access `b` presented in the next cycle, `rst` = 0; the cycle's other inputs are the listed ones, or a quiet
cycle's where none is listed. -/
def presentAccess (s : State) (b : BusIn) : State :=
  { s with env := { s.env with
      schedule := { s.env.schedule.head?.getD CycleIn.quiet with rst := false, bus := b } :: s.env.schedule.tail } }

/-- The word of the opcode table whose bits are `w`, of `nbits` bits, as the bus carries it. -/
def presentTableWord (s : State) (nbits w : Nat) : State :=
  presentAccess s (tableWrite (BitVec.ofNat 32 (w % 2 ^ nbits)))

end Sys2Proof.Machine
end

