-- ==== Sys2Proof/Safety.lean ====
section
/-! DEFINITION. The terms claims are stated in: several cycles, what a cycle consumes, a valid frame, and the invariants a
run keeps. A run is safe if no cycle of it faults (R700). -/

namespace Sys2Proof.Machine

/-! ### Runs -/

/-- `n` cycles, ending at the first fault or refusal. -/
def steps : Nat → State → Host.Outcome State Fault Refusal
  | 0, s => .next s
  | n + 1, s =>
    match step s with
    | .next t => steps n t
    | .fault f => .fault f
    | .refused r => .refused r

/-- `consume(b)` in the next cycle (00_scope.md §6, R101): no reset, a running read, and `b` offered. -/
def Consumes (s : State) (b : Byte) : Prop :=
  (currentInput s).rst = false ∧ s.dec.state ≠ .idle ∧ rxOffered s (currentInput s) = some b

/-- The next cycle is one of a running read in which no byte is offered (R456). -/
def Silent (s : State) : Prop :=
  (currentInput s).rst = false ∧ s.dec.state ≠ .idle ∧ rxOffered s (currentInput s) = none

/-- The bytes `f` are consumed in the next `f.length` cycles: they stand first at the receive transport, and the cycles listed
offer a byte each and hold no reset. What the host, the sink and the transmit side do in them is free. -/
def FrameOffered (s : State) (f : List Byte) : Prop :=
  (∃ q, s.env.rxQueue = f ++ q) ∧
  (∃ l rest, s.env.schedule = l ++ rest ∧ l.length = f.length ∧ ∀ c ∈ l, c.rst = false ∧ c.rxOffer = true)

/-- `f` is a whole frame the latched values accept (R301, R302, R303): sync pair, device ID, `l_len` payload bytes and, unless
the mode is DSTREAM (R572), the right checksum. -/
def frameValid (d : Decoder) (f : List Byte) : Prop :=
  f.length = d.lLen.toNat + 6 ∧
  f.take 2 = [d.lS1, d.lS2] ∧
  (f.getD 3 0 ++ f.getD 2 0 : Half) = d.lDevid ∧
  (d.mode = .dstream ∨
    (f.getD (d.lLen.toNat + 5) 0 ++ f.getD (d.lLen.toNat + 4) 0 : Half) = sum16 (f.take (d.lLen.toNat + 4)))

/-- Payload byte `i` of a frame: the byte at offset `4 + i` (R301, R302). -/
def payloadAt (f : List Byte) (i : Nat) : Byte := f.getD (4 + i) 0

/-! ### The invariant of every reachable state -/

/-- The encoder's invariant: a busy encoder is not done, an idle one has index 0 (R411), and the packet's last two bytes are
the checksum of its first ten (R414). -/
structure Encoder.Inv (e : Encoder) : Prop where
  busy_not_done : e.busy = true → e.done = false
  idle_idx : e.busy = false → e.idx = 0
  checksum : (e.frame[11] ++ e.frame[10] : Half) = sum16 (e.frame.toList.take 10)

/-- The decoder's invariant (R119, R131, R135, R330, R452, R467, R468, R550), for a buffer of `cap` bytes. -/
structure Decoder.Inv (cap : Nat) (d : Decoder) : Prop where
  /-- `sr_fill` saturates at 2 (R131). -/
  srFill_le : d.srFill.toNat ≤ 2
  /-- `DEC_DONE` is set exactly when a result stands (R330, R480, R550). -/
  done_iff : d.done = true ↔ d.result ≠ .none
  /-- A running read has no result (R452). -/
  busy_not_done : d.state ≠ .idle → d.done = false
  /-- A running read has a mode (R332). -/
  busy_mode : d.state ≠ .idle → d.mode ≠ .none
  /-- A running `READ_RESP`, or one that ended OK, has 6 payload bytes (R500). -/
  resp_len : d.mode = .resp → (d.state ≠ .idle ∨ d.result = .ok) → d.lLen = 6
  /-- A running `READ_DATA_BUF`, or one that ended OK, fits the buffer (R550). -/
  dbuf_len : d.mode = .dbuf → (d.state ≠ .idle ∨ d.result = .ok) → d.lLen.toNat ≤ cap
  /-- BADLEN is a result of `READ_DATA_BUF` only (R702). -/
  badlen_mode : d.result = .badlen → d.mode = .dbuf
  /-- The bounds of `idx` (R135) and what `DEC_COUNT` counts (R119). -/
  seek_idx : d.state = .seek → d.idx = 0
  devid_idx : d.state = .devid → d.idx.toNat ≤ 1
  payload_idx : d.state = .payload → d.idx.toNat < d.lLen.toNat ∧ d.count = d.idx
  cksum_idx : d.state = .cksum → d.idx.toNat ≤ 1 ∧ d.count = d.lLen
  /-- After OK, `DEC_COUNT` is the latched length (R119, R702). -/
  ok_count : d.result = .ok → d.count = d.lLen

/-- The machine's invariant. -/
structure State.Inv (s : State) : Prop where
  params : s.params.wf
  enc : s.enc.Inv
  dec : s.dec.Inv s.params.bufBytes
  /-- `BUF`'s memory is canonical and lists no byte the buffer lacks (R132). -/
  buf_wf : Memory.wf s.buf
  buf_bound : ∀ c ∈ s.buf, c.1 < s.params.bufBytes
  /-- An empty sink register holds 0 (R571). -/
  sink_empty : s.sink.valid = false → s.sink.data = 0

/-! ### What the running checksum holds (R472, R561) -/

/-- Payload byte `i` as the mode's payload rule stored it: in `RESP_PARAM` and `RESP_CODE` (R510), or in `BUF` (R560). -/
def storedByte (s : State) (i : Nat) : Byte :=
  if s.dec.mode = .resp then
    if i ≤ 3 then byteOf s.dec.respParam i else byteOf s.dec.respCode (i - 4)
  else bufByte s i

/-- The checksum recomputed over the latched sync pair and device ID and the first `n` payload bytes stored: what the source
recomputes at the end of a frame (R472, R561). -/
def recomputed (s : State) (n : Nat) : Half :=
  sum16 ([s.dec.lS1, s.dec.lS2, byteOf s.dec.lDevid 0, byteOf s.dec.lDevid 1] ++ (List.range n).map (storedByte s))

/-- In every mode but DSTREAM, `acc` is the checksum recomputed over what has been stored (R472, R561). -/
structure State.AccExact (s : State) : Prop where
  devid : s.dec.state = .devid → s.dec.acc = sum16 [s.dec.lS1, s.dec.lS2]
  payload : s.dec.state = .payload → s.dec.mode ≠ .dstream → s.dec.acc = recomputed s s.dec.idx.toNat
  cksum : s.dec.state = .cksum → s.dec.mode ≠ .dstream → s.dec.acc = recomputed s s.dec.lLen.toNat

end Sys2Proof.Machine
end

