-- ==== Sys2Proof/Certificates/Slice0/Obligations.lean ====
section
/-! DEFINITION. The statements for the provers: what the numbered rules of spec/ say the codec does. In a statement,
`currentInput s` is what the agents present in the next cycle; `presentAccess s b` is `s` with the access `b` on the bus in it. -/

open Sys2Proof Sys2Proof.Machine

/-! ### Reset -/

/-- R801: a cycle with `rst` = 1, from any state and whatever access is presented (R800): every output 0, every register and every
internal state element at its reset value, `BUF` and the parameters unchanged. (What moves on the ports: BytesMoveOnlyWhenBothReady.) -/
def Obligations.ResetCycleForcesResetValues : Prop :=
  ∀ s : State, (currentInput s).rst = true →
    ∃ t, step s = .next t ∧
      statusValue t = 0 ∧ t.rej = false ∧
      t.enc.busy = false ∧ t.enc.done = false ∧ t.enc.idx = 0 ∧ (∀ i : Fin 12, t.enc.frame[i] = 0) ∧
      t.dec.state = .idle ∧ t.dec.mode = .none ∧ t.dec.done = false ∧ t.dec.result = .none ∧
      t.dec.lS1 = 0 ∧ t.dec.lS2 = 0 ∧ t.dec.lDevid = 0 ∧ t.dec.lTimeout = 0 ∧ t.dec.lLen = 0 ∧
      t.dec.sr = 0 ∧ t.dec.srFill = 0 ∧ t.dec.idx = 0 ∧ t.dec.tmp = 0 ∧ t.dec.acc = 0 ∧ t.dec.sc = 0 ∧
      t.dec.respParam = 0 ∧ t.dec.respCode = 0 ∧ t.dec.count = 0 ∧
      t.sink.valid = false ∧ t.sink.data = 0 ∧
      t.regs.encOpcode = 0 ∧ t.regs.encParam = 0 ∧ t.regs.decLen = 0 ∧
      t.regs.cfgDevid = s.params.devidRst ∧ t.regs.cfgCmdSync = s.params.cmdSyncRst ∧
      t.regs.cfgRespSync = s.params.respSyncRst ∧ t.regs.cfgDataSync = s.params.respSyncRst ∧
      t.regs.cfgTimeout = s.params.timeoutRst ∧
      t.params = s.params ∧ (∀ i, bufByte t i = bufByte s i) ∧
      t.env.out = { busRdata := 0, txValid := false, txData := 0, rxReady := false, sinkValid := false, sinkData := 0 }

/-- The reset state meets both invariants, whatever the OPEN parameters are (R3, R801). -/
def Obligations.ResetStateMeetsInvariants : Prop := State.reset.Inv ∧ State.reset.AccExact

/-! ### Encodings -/

/-- R320, R200: a word written to `CTRL` selects a command by bits [2:0] alone, whatever the other data bits and address bits
[1:0] are. -/
def Obligations.CtrlWordSelectsCommandByLowBits : Prop :=
  ∀ (v : Word) (alow : BitVec 2),
    decode (BusIn.write (0#11 ++ alow) v) = .ok (match v.toNat % 8 with
      | 0 => Instr.nop
      | 1 => Instr.encode
      | 2 => Instr.readResp
      | 3 => Instr.readDataBuf
      | 4 => Instr.readDataStream
      | 5 => Instr.reserved5
      | 6 => Instr.reserved6
      | _ => Instr.reserved7)

/-- R320, R321, R620, R200: every command decodes from its encoding with every ignored bit at every value. -/
def Obligations.DecodeOfEncodeIsTheCommand : Prop :=
  ∀ (i : Instr) (alow : BitVec 2) (junk : Word), decode (encodeWith i alow junk) = .ok i

/-- R211, R320, R620: a host access is a command exactly when it is a write of `CTRL`, or of `STATUS` with bit 8 set. -/
def Obligations.OnlyCtrlAndStatusClearAreCommands : Prop :=
  ∀ b : BusIn, (∃ i, decode b = .ok i) ↔
    b.en = true ∧ b.we = true ∧ (b.addr.toNat / 4 = 0 ∨ (b.addr.toNat / 4 = 1 ∧ b.wdata.toNat / 256 % 2 = 1))

/-- Words written out from R320 and R620 (V-C1, V-C4 and R340's spellings) decode to the commands they stand for. -/
def Obligations.SpecWordsDecode : Prop :=
  decode (BusIn.write 0x000 0xFFFFFFF8) = .ok Instr.nop ∧
  decode (BusIn.write 0x000 0x00000001) = .ok Instr.encode ∧
  decode (BusIn.write 0x000 0x0000000A) = .ok Instr.readResp ∧
  decode (BusIn.write 0x000 0x00000003) = .ok Instr.readDataBuf ∧
  decode (BusIn.write 0x000 0x00000004) = .ok Instr.readDataStream ∧
  decode (BusIn.write 0x000 0x00000005) = .ok Instr.reserved5 ∧
  decode (BusIn.write 0x000 0x00000006) = .ok Instr.reserved6 ∧
  decode (BusIn.write 0x000 0x00000007) = .ok Instr.reserved7 ∧
  decode (BusIn.write 0x004 0x00000100) = .ok Instr.clrRej

/-! ### The commands -/

/-- `NOP` changes nothing (R601), and completes in every state. -/
def Obligations.NopChangesNothing : Prop := ∀ s : State, exec .nop s = .next s

/-- A reserved command sets `REJ` and changes nothing else, busy or idle (R605). -/
def Obligations.ReservedCommandsSetRejOnly : Prop :=
  ∀ s : State,
    exec .reserved5 s = .next { s with rej := true } ∧
    exec .reserved6 s = .next { s with rej := true } ∧
    exec .reserved7 s = .next { s with rej := true }

/-- The write of `STATUS` with bit 8 set clears `REJ` and changes nothing else (R620). -/
def Obligations.ClrRejClearsRejOnly : Prop := ∀ s : State, exec .clrRej s = .next { s with rej := false }

/-- R400, R300, R303: `ENCODE` accepted by an idle encoder latches the twelve bytes of the packet, little-endian fields and
checksum, and starts sending; nothing else changes. -/
def Obligations.EncodeLatchesThePacket : Prop :=
  ∀ s : State, s.enc.busy = false →
    let w : Byte → Half := fun b => b.setWidth 16
    let f0 := s.regs.cfgCmdSync.s1
    let f1 := s.regs.cfgCmdSync.s2
    let f2 := s.regs.cfgDevid.extractLsb' 0 8
    let f3 := s.regs.cfgDevid.extractLsb' 8 8
    let f4 := s.regs.encParam.extractLsb' 0 8
    let f5 := s.regs.encParam.extractLsb' 8 8
    let f6 := s.regs.encParam.extractLsb' 16 8
    let f7 := s.regs.encParam.extractLsb' 24 8
    let f8 := s.regs.encOpcode.extractLsb' 0 8
    let f9 := s.regs.encOpcode.extractLsb' 8 8
    let ck := w f0 + w f1 + w f2 + w f3 + w f4 + w f5 + w f6 + w f7 + w f8 + w f9
    exec .encode s = .next { s with enc :=
      { busy := true, done := false, idx := 0
        frame := #v[f0, f1, f2, f3, f4, f5, f6, f7, f8, f9, ck.extractLsb' 0 8, ck.extractLsb' 8 8] } }

/-- R304: the checksum of a command packet never wraps: as a number it is the plain sum of the ten bytes, at most 0x09F6. -/
def Obligations.CommandChecksumNeverWraps : Prop :=
  ∀ bs : List Byte, bs.length = 10 →
    (sum16 bs).toNat = (bs.map BitVec.toNat).sum ∧ (sum16 bs).toNat ≤ 0x09F6

/-- R610: a command to a unit that is busy sets `REJ` and changes nothing else; busy is judged per unit. -/
def Obligations.BusyUnitRejectsCommand : Prop :=
  ∀ s : State,
    (s.enc.busy = true → exec .encode s = .next { s with rej := true }) ∧
    (s.dec.state ≠ .idle →
      exec .readResp s = .next { s with rej := true } ∧
      exec .readDataBuf s = .next { s with rej := true } ∧
      exec .readDataStream s = .next { s with rej := true })

/-- R500, R452: `READ_RESP` accepted by an idle decoder latches the response pair, the device ID, the timeout and length 6,
and starts seeking; nothing else changes. -/
def Obligations.ReadRespStartsARead : Prop :=
  ∀ s : State, s.dec.state = .idle →
    exec .readResp s = .next { s with dec := { s.dec with
      mode := .resp, done := false, result := .none
      lS1 := s.regs.cfgRespSync.s1, lS2 := s.regs.cfgRespSync.s2
      lDevid := s.regs.cfgDevid, lTimeout := s.regs.cfgTimeout, lLen := 6
      count := 0, sc := 0, sr := 0, srFill := 0, idx := 0, state := .seek } }

/-- R550, R452: `READ_DATA_BUF` on an idle decoder: a length above `P_BUF_BYTES` ends at once with BADLEN, every other state
unchanged; any other length starts a read with the data pair. -/
def Obligations.ReadDataBufStartsOrRefuses : Prop :=
  ∀ s : State, s.dec.state = .idle →
    (s.params.bufBytes < s.regs.decLen.toNat →
      exec .readDataBuf s = .next { s with dec := { s.dec with mode := .dbuf, done := true, result := .badlen } }) ∧
    (s.regs.decLen.toNat ≤ s.params.bufBytes →
      exec .readDataBuf s = .next { s with dec := { s.dec with
        mode := .dbuf, done := false, result := .none
        lS1 := s.regs.cfgDataSync.s1, lS2 := s.regs.cfgDataSync.s2
        lDevid := s.regs.cfgDevid, lTimeout := s.regs.cfgTimeout, lLen := s.regs.decLen
        count := 0, sc := 0, sr := 0, srFill := 0, idx := 0, state := .seek } })

/-- R551, R452: `READ_DATA_STREAM` on an idle decoder starts a read of any length with the data pair. -/
def Obligations.ReadDataStreamStartsARead : Prop :=
  ∀ s : State, s.dec.state = .idle →
    exec .readDataStream s = .next { s with dec := { s.dec with
      mode := .dstream, done := false, result := .none
      lS1 := s.regs.cfgDataSync.s1, lS2 := s.regs.cfgDataSync.s2
      lDevid := s.regs.cfgDevid, lTimeout := s.regs.cfgTimeout, lLen := s.regs.decLen
      count := 0, sc := 0, sr := 0, srFill := 0, idx := 0, state := .seek } }

/-- The frame of every command: the host's registers, `BUF` byte by byte, the sink register, the parameters, the free draws and
the agents are unchanged; `ENCODE` alone may write the encoder, the reads alone the decoder, and no command leaves `REJ`
cleared that was set but `CLR_REJ`. `RESP_PARAM`, `RESP_CODE`, `tmp` and `acc` are unchanged by all. -/
def Obligations.CommandsChangeOnlyTheirUnit : Prop :=
  ∀ (i : Instr) (s t : State), exec i s = .next t →
    t.regs = s.regs ∧ t.sink = s.sink ∧ t.params = s.params ∧ t.draws = s.draws ∧ t.env = s.env ∧
    (∀ a, bufByte t a = bufByte s a) ∧
    (i ≠ .encode → t.enc = s.enc) ∧
    (i ≠ .readResp → i ≠ .readDataBuf → i ≠ .readDataStream → t.dec = s.dec) ∧
    t.dec.respParam = s.dec.respParam ∧ t.dec.respCode = s.dec.respCode ∧
    t.dec.tmp = s.dec.tmp ∧ t.dec.acc = s.dec.acc ∧
    (i ≠ .clrRej → s.rej = true → t.rej = true)

/-- R700: no command traps, stops or is refused, in any state. -/
def Obligations.EveryCommandCompletes : Prop := ∀ (i : Instr) (s : State), ∃ t, exec i s = .next t

/-! ### A cycle and the host's access -/

/-- A cycle runs the command on its bus: it is evaluated on the state at the start of the cycle, and around it each unit busy at
the start takes its own step (R140, R141, R600; that the command and the units' steps are put together so is the model's reading, log 12). -/
def Obligations.StepRunsTheDecodedCommand : Prop :=
  ∀ (s u : State) (i : Instr) (d : DecoderOut),
    (currentInput s).rst = false → decode (currentInput s).bus = .ok i → exec i s = .next u →
    decoderCycle s (rxOffered s (currentInput s)) (currentInput s).tick = .ok d →
    ∃ t, step s = .next t ∧ t = assemble s u d (currentInput s) ∧
      t.rej = u.rej ∧ t.regs = u.regs ∧ t.params = u.params ∧
      t.enc = (if s.enc.busy then encoderCycle s.enc (currentInput s).txReady else u.enc) ∧
      t.dec = (if s.dec.busy then d.dec else u.dec) ∧
      t.buf = d.buf ∧ t.draws = d.draws ∧ t.sink = sinkAfter d.sink ∧ t.env = envAfter s (currentInput s)

/-- R601, R605, R620, against the same cycle without an access, whatever the units do in it: `NOP` changes nothing, a reserved command
only sets `REJ`, the `STATUS` write with bit 8 set only clears it and with bit 8 clear does nothing, for every value of the ignored
bits. A command to a busy unit only sets `REJ` (R610): a unit that finishes in this very cycle was busy at its start, so its
command is rejected and the finish still happens. -/
def Obligations.CommandCycleAgainstIdleCycle : Prop :=
  ∀ (s t : State) (alow : BitVec 2) (junk : Word), step (presentAccess s BusIn.idle) = .next t →
    step (presentAccess s (encodeWith .nop alow junk)) = .next t ∧
    step (presentAccess s (encodeWith .reserved5 alow junk)) = .next { t with rej := true } ∧
    step (presentAccess s (encodeWith .reserved6 alow junk)) = .next { t with rej := true } ∧
    step (presentAccess s (encodeWith .reserved7 alow junk)) = .next { t with rej := true } ∧
    step (presentAccess s (encodeWith .clrRej alow junk)) = .next { t with rej := false } ∧
    (junk.getLsbD 8 = false → step (presentAccess s (BusIn.write (1#11 ++ alow) junk)) = .next t) ∧
    (s.enc.busy = true → step (presentAccess s (encodeWith .encode alow junk)) = .next { t with rej := true }) ∧
    (s.dec.state ≠ .idle → ∀ i, i = .readResp ∨ i = .readDataBuf ∨ i = .readDataStream →
      step (presentAccess s (encodeWith i alow junk)) = .next { t with rej := true })

/-- R2, R610, R821: a command to an idle unit is accepted in its cycle whatever the other unit does, and the other unit's step is
that of the same cycle without an access. -/
def Obligations.IdleUnitAcceptsCommandWhileOtherRuns : Prop :=
  ∀ (s t u : State) (alow : BitVec 2) (junk : Word), step (presentAccess s BusIn.idle) = .next t →
    (s.enc.busy = false → exec .encode s = .next u →
      step (presentAccess s (encodeWith .encode alow junk)) = .next { t with enc := u.enc }) ∧
    (s.dec.state = .idle → ∀ i, i = .readResp ∨ i = .readDataBuf ∨ i = .readDataStream → exec i s = .next u →
      step (presentAccess s (encodeWith i alow junk)) = .next { t with dec := u.dec })

/-- R211, R111, R121, against the same cycle without an access: a write of a read/write register stores its fields and nothing
else; a write of a read-only register, of a reserved word, of the `BUF` window, or of `STATUS` with bit 8 clear changes nothing.
(A write of `CTRL`, and of `STATUS` with bit 8 set, is a command.) -/
def Obligations.RegisterWriteStoresItsFields : Prop :=
  ∀ (s t : State) (addr : BitVec 13) (v : Word), step (presentAccess s BusIn.idle) = .next t →
    addr.toNat / 4 ≠ 0 → (addr.toNat / 4 = 1 → v.getLsbD 8 = false) →
    let w := addr.toNat / 4
    let lo : Byte := v.extractLsb' 0 8
    let hi : Byte := v.extractLsb' 8 8
    step (presentAccess s (BusIn.write addr v)) = .next { t with regs :=
      { encOpcode := if w = 2 then v.extractLsb' 0 16 else s.regs.encOpcode
        encParam := if w = 3 then v else s.regs.encParam
        decLen := if w = 4 then v else s.regs.decLen
        cfgDevid := if w = 8 then v.extractLsb' 0 16 else s.regs.cfgDevid
        cfgCmdSync := if w = 9 then ⟨lo, hi⟩ else s.regs.cfgCmdSync
        cfgRespSync := if w = 10 then ⟨lo, hi⟩ else s.regs.cfgRespSync
        cfgDataSync := if w = 11 then ⟨lo, hi⟩ else s.regs.cfgDataSync
        cfgTimeout := if w = 12 then v else s.regs.cfgTimeout } }

/-- R210, R111, R201: what a read of the register region returns. -/
def Obligations.RegisterReadReturnsTheRegister : Prop :=
  ∀ (s : State) (addr : BitVec 13), addr.toNat < 0x1000 →
    let w := addr.toNat / 4
    let pair : SyncPair → Nat := fun p => p.s2.toNat * 256 + p.s1.toNat
    (memRead s addr).toNat =
      if w = 1 then (statusValue s).toNat
      else if w = 2 then s.regs.encOpcode.toNat
      else if w = 3 then s.regs.encParam.toNat
      else if w = 4 then s.regs.decLen.toNat
      else if w = 5 then s.dec.respParam.toNat
      else if w = 6 then s.dec.respCode.toNat
      else if w = 7 then s.dec.count.toNat
      else if w = 8 then s.regs.cfgDevid.toNat
      else if w = 9 then pair s.regs.cfgCmdSync
      else if w = 10 then pair s.regs.cfgRespSync
      else if w = 11 then pair s.regs.cfgDataSync
      else if w = 12 then s.regs.cfgTimeout.toNat
      else 0

/-- R202: the word of the `BUF` window at byte address `0x1000 + 4k + j` packs bytes `4k` to `4k + 3` little-endian; a byte at or
above `P_BUF_BYTES` reads 0. -/
def Obligations.BufWindowPacksLittleEndian : Prop :=
  ∀ (s : State) (addr : BitVec 13), 0x1000 ≤ addr.toNat →
    let k := (addr.toNat - 0x1000) / 4
    (∀ j, j < 4 → (memRead s addr).extractLsb' (8 * j) 8 = bufByte s (4 * k + j)) ∧
    (∀ i, s.params.bufBytes ≤ i → bufByte s i = 0)

/-- A read returns the word as it was at the start of its cycle and has no effect but that; in a cycle with no read `bus_rdata` is 0
(R210, R212, R230). Where the word returned is recorded is the model's choice (log 11). -/
def Obligations.ReadHasNoSideEffect : Prop :=
  ∀ (s t : State) (addr : BitVec 13), step (presentAccess s BusIn.idle) = .next t →
    t.env.out.busRdata = 0 ∧ t.env.hostReads = s.env.hostReads ∧
    step (presentAccess s (BusIn.read addr)) = .next { t with env := { t.env with
      hostReads := s.env.hostReads ++ [memRead s addr]
      out := { t.env.out with busRdata := memRead s addr } } }

/-- R113, R330 to R332: the fields of the `STATUS` word, and 0 in every reserved bit. -/
def Obligations.StatusWordHoldsItsFields : Prop :=
  ∀ s : State,
    (statusValue s).getLsbD 0 = s.enc.busy ∧
    (statusValue s).getLsbD 1 = s.enc.done ∧
    ((statusValue s).getLsbD 2 = true ↔ s.dec.state ≠ .idle) ∧
    (statusValue s).getLsbD 3 = s.dec.done ∧
    (statusValue s).toNat / 16 % 8 =
      (match s.dec.result with | .none => 0 | .ok => 1 | .timeout => 2 | .badlen => 3) ∧
    (statusValue s).getLsbD 8 = s.rej ∧
    (statusValue s).toNat / 4096 % 8 =
      (match s.dec.state with | .idle => 0 | .seek => 1 | .devid => 2 | .payload => 3 | .cksum => 4) ∧
    (statusValue s).toNat / 65536 =
      (match s.dec.mode with | .none => 0 | .resp => 1 | .dbuf => 2 | .dstream => 3) ∧
    (∀ i ∈ [7, 9, 10, 11, 15], (statusValue s).getLsbD i = false)

/-- R136, R211: in a cycle without reset and without a host write, no unit changes a host register or `REJ`. -/
def Obligations.OnlyTheHostWritesItsRegisters : Prop :=
  ∀ s t : State, step s = .next t → (currentInput s).rst = false →
    ((currentInput s).bus.en = false ∨ (currentInput s).bus.we = false) →
    t.regs = s.regs ∧ t.rej = s.rej

/-- R605, R610: in a cycle without reset, `REJ` rises only on a reserved command or on a command to a unit busy at its start. -/
def Obligations.RejRisesOnlyOnARefusedCommand : Prop :=
  ∀ s t : State, step s = .next t → (currentInput s).rst = false → s.rej = false → t.rej = true →
    ∃ i, decode (currentInput s).bus = .ok i ∧
      (i = .reserved5 ∨ i = .reserved6 ∨ i = .reserved7 ∨ (i = .encode ∧ s.enc.busy = true) ∨
        ((i = .readResp ∨ i = .readDataBuf ∨ i = .readDataStream) ∧ s.dec.state ≠ .idle))

/-- In a cycle without reset, `ENC_DONE` is cleared only by an accepted `ENCODE`, and `DEC_DONE` and `DEC_RESULT` only by an accepted
read command (R621). -/
def Obligations.DoneFlagsClearedOnlyByNextCommand : Prop :=
  ∀ s t : State, step s = .next t → (currentInput s).rst = false →
    (s.enc.done = true → t.enc.done = false → decode (currentInput s).bus = .ok .encode ∧ s.enc.busy = false) ∧
    ((s.dec.done = true ∧ t.dec.done = false) ∨ (s.dec.result ≠ .none ∧ t.dec.result = .none) →
      ∃ i, decode (currentInput s).bus = .ok i ∧ (i = .readResp ∨ i = .readDataBuf ∨ i = .readDataStream) ∧
        s.dec.state = .idle)

/-! ### Ports and transports -/

/-- R102: the five outputs of a cycle are functions of the state at its start, and 0 in a cycle with `rst` = 1. -/
def Obligations.OutputsAreFunctionsOfTheState : Prop :=
  ∀ s t : State, step s = .next t →
    ((currentInput s).rst = true →
      t.env.out.txValid = false ∧ t.env.out.txData = 0 ∧ t.env.out.rxReady = false ∧
      t.env.out.sinkValid = false ∧ t.env.out.sinkData = 0) ∧
    ((currentInput s).rst = false →
      t.env.out.txValid = s.enc.busy ∧
      t.env.out.txData = (if s.enc.busy then s.enc.frame[s.enc.idx] else 0) ∧
      (t.env.out.rxReady = true ↔ s.dec.state ≠ .idle) ∧
      t.env.out.sinkValid = s.sink.valid ∧
      t.env.out.sinkData = (if s.sink.valid then s.sink.data else 0))

/-- A byte moves on a port exactly when both sides are ready, in reset cycles too; a byte offered and not consumed stays first at the
receive transport (R101). The transports' queues, and where the model records what moved, are its own (log 10, log 11). -/
def Obligations.BytesMoveOnlyWhenBothReady : Prop :=
  ∀ s t : State, step s = .next t →
    let inp := currentInput s
    let held := s.env.rxQueue ++ inp.rxArrive
    (t.env.out.txValid = true ∧ inp.txReady = true → t.env.txTaken = s.env.txTaken ++ [t.env.out.txData]) ∧
    (t.env.out.txValid = false ∨ inp.txReady = false → t.env.txTaken = s.env.txTaken) ∧
    (∀ b q, held = b :: q → inp.rxOffer = true → t.env.out.rxReady = true → t.env.rxQueue = q) ∧
    (held = [] ∨ inp.rxOffer = false ∨ t.env.out.rxReady = false → t.env.rxQueue = held) ∧
    t.env.sinkSeen = (if t.env.out.sinkValid then s.env.sinkSeen ++ [t.env.out.sinkData] else s.env.sinkSeen) ∧
    (inp.rst = true → t.env.hostReads = s.env.hostReads)

/-- The encoder's part of every cycle without reset: another byte taken is counted (R410), the last one ends the packet (R411), and
an untaken byte, or an idle encoder, changes nothing (R410, R412). -/
def Obligations.EncoderSendsOneByteWhenTaken : Prop :=
  ∀ s t : State, step s = .next t → (currentInput s).rst = false →
    (s.enc.busy = true → (currentInput s).txReady = true → s.enc.idx.val = 11 →
      t.enc.busy = false ∧ t.enc.done = true ∧ t.enc.idx.val = 0 ∧ t.enc.frame = s.enc.frame) ∧
    (s.enc.busy = true → (currentInput s).txReady = true → s.enc.idx.val ≠ 11 →
      t.enc.busy = true ∧ t.enc.done = s.enc.done ∧ t.enc.idx.val = s.enc.idx.val + 1 ∧ t.enc.frame = s.enc.frame) ∧
    (s.enc.busy = true → (currentInput s).txReady = false → t.enc = s.enc) ∧
    (s.enc.busy = false → decode (currentInput s).bus ≠ .ok .encode → t.enc = s.enc)

/-- Over any run of cycles without reset, whatever the host writes, the transmit transport has taken the first `k` bytes of the
latched packet after `k` cycles with `tx_ready`, in order; the twelfth ends the packet (R410, R411, R231, R232). `txTaken` is the
model's record (log 11). -/
def Obligations.PacketIsSentInOrder : Prop :=
  ∀ (s : State) (l rest : List CycleIn), s.Inv → s.enc.busy = true → s.enc.idx.val = 0 →
    s.env.schedule = l ++ rest → (∀ c ∈ l, c.rst = false) → l.countP (fun c => c.txReady) ≤ 11 →
    ∃ t, steps l.length s = .next t ∧
      t.enc.busy = true ∧ t.enc.frame = s.enc.frame ∧ t.enc.idx.val = l.countP (fun c => c.txReady) ∧
      t.env.txTaken = s.env.txTaken ++ s.enc.frame.toList.take (l.countP (fun c => c.txReady)) ∧
      (∀ c rest', rest = c :: rest' → c.rst = false → c.txReady = true → l.countP (fun c => c.txReady) = 11 →
        ∃ t', step t = .next t' ∧ t'.enc.busy = false ∧ t'.enc.done = true ∧
          t'.env.txTaken = s.env.txTaken ++ s.enc.frame.toList)

/-! ### The decoder's cycle -/

/-- An idle decoder consumes nothing and changes no state but by an accepted command (R455, R481); what it does not consume stays
queued at the receive transport (log 10). -/
def Obligations.IdleDecoderConsumesNothing : Prop :=
  ∀ s t : State, step s = .next t → (currentInput s).rst = false → s.dec.state = .idle →
    t.env.rxQueue = s.env.rxQueue ++ (currentInput s).rxArrive ∧ t.buf = s.buf ∧ t.draws = s.draws ∧
    (decode (currentInput s).bus ≠ .ok .readResp → decode (currentInput s).bus ≠ .ok .readDataBuf →
      decode (currentInput s).bus ≠ .ok .readDataStream → t.dec = s.dec)

/-- R460, R455: a byte consumed in SEEK shifts into `sr`; two bytes since the last clear that equal the latched pair leave
SEEK. -/
def Obligations.SeekShiftsAndMatchesTheSyncPair : Prop :=
  ∀ (s : State) (b : Byte), Consumes s b → s.dec.state = .seek →
    let older : Byte := s.dec.sr.extractLsb' 0 8
    let fill := min (s.dec.srFill.toNat + 1) 2
    ∃ t, step s = .next t ∧ t.buf = s.buf ∧ t.draws = s.draws ∧
      (fill = 2 ∧ older = s.dec.lS1 ∧ b = s.dec.lS2 →
        t.dec = { s.dec with
          sr := older ++ b, srFill := BitVec.ofNat 2 fill, sc := 0
          state := .devid, idx := 0, acc := s.dec.lS1.setWidth 16 + s.dec.lS2.setWidth 16 }) ∧
      (¬ (fill = 2 ∧ older = s.dec.lS1 ∧ b = s.dec.lS2) →
        t.dec = { s.dec with sr := older ++ b, srFill := BitVec.ofNat 2 fill, sc := 0 })

/-- R465: the first device-ID byte is kept, not compared. -/
def Obligations.DevidKeepsItsFirstByte : Prop :=
  ∀ (s : State) (b : Byte), Consumes s b → s.dec.state = .devid → s.dec.idx = 0 →
    ∃ t, step s = .next t ∧ t.dec = { s.dec with sc := 0, tmp := b, idx := 1 } ∧ t.buf = s.buf ∧ t.draws = s.draws

/-- R466, R475: a device ID that differs from the latched one resynchronises: the shift register is cleared, and what was
latched, delivered or counted stays. -/
def Obligations.DevidMismatchResynchronises : Prop :=
  ∀ (s : State) (b : Byte), Consumes s b → s.dec.state = .devid → s.dec.idx = 1 → (b ++ s.dec.tmp : Half) ≠ s.dec.lDevid →
    ∃ t, step s = .next t ∧ t.dec = { s.dec with sc := 0, state := .seek, sr := 0, srFill := 0, idx := 0 } ∧
      t.buf = s.buf ∧ t.draws = s.draws

/-- R467, R555: the latched device ID is accepted: its bytes enter the checksum, `DEC_COUNT` restarts, and a payload of length 0
goes straight to CKSUM. -/
def Obligations.DevidMatchStartsThePayload : Prop :=
  ∀ (s : State) (b : Byte), Consumes s b → s.dec.state = .devid → s.dec.idx = 1 → (b ++ s.dec.tmp : Half) = s.dec.lDevid →
    ∃ t, step s = .next t ∧
      t.dec = { s.dec with
        sc := 0, acc := s.dec.acc + s.dec.tmp.setWidth 16 + b.setWidth 16, idx := 0, count := 0
        state := if s.dec.lLen.toNat = 0 then .cksum else .payload } ∧
      t.buf = s.buf ∧ t.draws = s.draws

/-- R468, R510: a payload byte of a `READ_RESP` goes to byte `idx` of `RESP_PARAM`, then of `RESP_CODE`, every other byte kept; it enters
the checksum and is counted; after `l_len` bytes CKSUM follows. `BUF` and the sink get nothing. -/
def Obligations.RespPayloadByteIsDelivered : Prop :=
  ∀ (s : State) (b : Byte), Consumes s b → s.dec.state = .payload → s.dec.mode = .resp → s.dec.idx.toNat ≤ 5 →
    ∃ t, step s = .next t ∧
      (∀ j, j < 4 → (t.dec.respParam.extractLsb' (8 * j) 8 : Byte) =
        if j = s.dec.idx.toNat then b else s.dec.respParam.extractLsb' (8 * j) 8) ∧
      (∀ j, j < 2 → (t.dec.respCode.extractLsb' (8 * j) 8 : Byte) =
        if j + 4 = s.dec.idx.toNat then b else s.dec.respCode.extractLsb' (8 * j) 8) ∧
      t.dec = { s.dec with
        sc := 0, acc := s.dec.acc + b.setWidth 16, count := s.dec.count + 1
        state := if s.dec.idx + 1 = s.dec.lLen then .cksum else .payload
        idx := if s.dec.idx + 1 = s.dec.lLen then 0 else s.dec.idx + 1
        respParam := t.dec.respParam, respCode := t.dec.respCode } ∧
      t.buf = s.buf ∧ t.draws = s.draws ∧ t.sink = { valid := false, data := 0 }

/-- R468, R560: a payload byte of a `READ_DATA_BUF` is stored at `BUF[idx]`, every other byte of `BUF` kept. -/
def Obligations.DbufPayloadByteIsStored : Prop :=
  ∀ (s : State) (b : Byte), Consumes s b → s.dec.state = .payload → s.dec.mode = .dbuf →
    s.dec.idx.toNat < s.params.bufBytes →
    ∃ t, step s = .next t ∧
      (∀ i, bufByte t i = if i = s.dec.idx.toNat then b else bufByte s i) ∧
      t.dec = { s.dec with
        sc := 0, acc := s.dec.acc + b.setWidth 16, count := s.dec.count + 1
        state := if s.dec.idx + 1 = s.dec.lLen then .cksum else .payload
        idx := if s.dec.idx + 1 = s.dec.lLen then 0 else s.dec.idx + 1 } ∧
      t.draws = s.draws ∧ t.sink = { valid := false, data := 0 }

/-- R468, R570: a payload byte of a `READ_DATA_STREAM` goes to the sink register, and `BUF` is not touched. -/
def Obligations.StreamPayloadByteGoesToTheSink : Prop :=
  ∀ (s : State) (b : Byte), Consumes s b → s.dec.state = .payload → s.dec.mode = .dstream →
    ∃ t, step s = .next t ∧
      t.sink = { valid := true, data := b } ∧
      t.dec = { s.dec with
        sc := 0, acc := s.dec.acc + b.setWidth 16, count := s.dec.count + 1
        state := if s.dec.idx + 1 = s.dec.lLen then .cksum else .payload
        idx := if s.dec.idx + 1 = s.dec.lLen then 0 else s.dec.idx + 1 } ∧
      t.buf = s.buf ∧ t.draws = s.draws

/-- R470: the first checksum byte is kept. -/
def Obligations.CksumKeepsItsFirstByte : Prop :=
  ∀ (s : State) (b : Byte), Consumes s b → s.dec.state = .cksum → s.dec.idx = 0 →
    ∃ t, step s = .next t ∧ t.dec = { s.dec with sc := 0, tmp := b, idx := 1 } ∧ t.buf = s.buf ∧ t.draws = s.draws

/-- R471, R475: outside streaming mode a wrong checksum resynchronises, and what was delivered stays. -/
def Obligations.CksumMismatchResynchronises : Prop :=
  ∀ (s : State) (b : Byte), Consumes s b → s.dec.state = .cksum → s.dec.idx = 1 → s.dec.mode ≠ .dstream →
    (b ++ s.dec.tmp : Half) ≠ s.dec.acc →
    ∃ t, step s = .next t ∧ t.dec = { s.dec with sc := 0, state := .seek, sr := 0, srFill := 0, idx := 0 } ∧
      t.buf = s.buf ∧ t.draws = s.draws

/-- R472, R480, R572: the right checksum, or any checksum in streaming mode, ends the read with OK. -/
def Obligations.CksumAcceptFinishesOk : Prop :=
  ∀ (s : State) (b : Byte), Consumes s b → s.dec.state = .cksum → s.dec.idx = 1 →
    ((b ++ s.dec.tmp : Half) = s.dec.acc ∨ s.dec.mode = .dstream) →
    ∃ t, step s = .next t ∧ t.dec = { s.dec with sc := 0, state := .idle, done := true, result := .ok } ∧
      t.buf = s.buf ∧ t.draws = s.draws

/-- A cycle of a running read without a byte: expiry, or one more tick of silence, saturating at 2^32-1, or no change (R456, R480).
After a `READ_RESP` that expires `RESP_PARAM` and `RESP_CODE` are not fixed (R515): nothing is said of them there. That a data read
that expires keeps them, and that they are exact while a read runs, is the model's reading (log 6). -/
def Obligations.SilentCycleCountsOrTimesOut : Prop :=
  ∀ s : State, Silent s →
    ∃ t, step s = .next t ∧ t.buf = s.buf ∧
      (s.dec.lTimeout.toNat ≤ s.dec.sc.toNat →
        t.dec = { s.dec with state := .idle, done := true, result := .timeout
                             respParam := t.dec.respParam, respCode := t.dec.respCode } ∧
        (s.dec.mode ≠ .resp → t.dec.respParam = s.dec.respParam ∧ t.dec.respCode = s.dec.respCode)) ∧
      (s.dec.sc.toNat < s.dec.lTimeout.toNat →
        t.dec = { s.dec with sc := t.dec.sc } ∧
        t.dec.sc.toNat =
          if (currentInput s).tick then min (s.dec.sc.toNat + 1) (2 ^ 32 - 1) else s.dec.sc.toNat)

/-- A consumed byte clears the silence counter and wins over expiry: whatever `sc` held and whatever `tick` is, the cycle does not
end the read with TIMEOUT (R455, R705), and the receive transport holds the byte no more (log 10). -/
def Obligations.ConsumedByteWinsOverTimeout : Prop :=
  ∀ (s : State) (b : Byte), s.Inv → Consumes s b →
    ∃ t, step s = .next t ∧ t.dec.sc = 0 ∧ t.dec.result ≠ .timeout ∧
      t.env.rxQueue = (s.env.rxQueue ++ (currentInput s).rxArrive).tail

/-- R571: the sink register after every cycle without reset, and what the sink sees of it in the cycle. -/
def Obligations.SinkRegisterHoldsOneByteForOneCycle : Prop :=
  ∀ s t : State, step s = .next t → (currentInput s).rst = false →
    t.env.out.sinkValid = s.sink.valid ∧ (s.sink.valid = true → t.env.out.sinkData = s.sink.data) ∧
    (∀ b, rxOffered s (currentInput s) = some b → s.dec.state = .payload → s.dec.mode = .dstream →
      t.sink = { valid := true, data := b }) ∧
    (rxOffered s (currentInput s) = none ∨ s.dec.state ≠ .payload ∨ s.dec.mode ≠ .dstream →
      t.sink = { valid := false, data := 0 })

/-- R132, R560, R800: over any cycle, reset cycles included, a byte of `BUF` changes only where a `READ_DATA_BUF` payload byte is
consumed, and then only `BUF[idx]`. -/
def Obligations.OnlyDbufPayloadWritesBuf : Prop :=
  ∀ (s t : State) (i : Nat), step s = .next t →
    ¬ ((∃ b, Consumes s b) ∧ s.dec.state = .payload ∧ s.dec.mode = .dbuf ∧ s.dec.idx.toNat = i) →
    bufByte t i = bufByte s i

/-- R117, R118, R510, R515: over any cycle without reset, `RESP_PARAM` and `RESP_CODE` change only where a `READ_RESP` payload byte
is consumed or a `READ_RESP` times out; so they keep their values in and after a data read (log 6). -/
def Obligations.OnlyReadRespWritesRespRegisters : Prop :=
  ∀ s t : State, step s = .next t → (currentInput s).rst = false →
    ¬ ((∃ b, Consumes s b) ∧ s.dec.state = .payload ∧ s.dec.mode = .resp) →
    ¬ (Silent s ∧ s.dec.mode = .resp ∧ s.dec.lTimeout.toNat ≤ s.dec.sc.toNat) →
    t.dec.respParam = s.dec.respParam ∧ t.dec.respCode = s.dec.respCode

/-- R231, R234: without reset, whatever the host writes, a running operation keeps what it latched. -/
def Obligations.RunningOperationKeepsItsLatchedValues : Prop :=
  ∀ s t : State, step s = .next t → (currentInput s).rst = false →
    (s.enc.busy = true → t.enc.frame = s.enc.frame) ∧
    (s.dec.state ≠ .idle →
      t.dec.mode = s.dec.mode ∧ t.dec.lS1 = s.dec.lS1 ∧ t.dec.lS2 = s.dec.lS2 ∧ t.dec.lDevid = s.dec.lDevid ∧
      t.dec.lTimeout = s.dec.lTimeout ∧ t.dec.lLen = s.dec.lLen)

/-- R482: without reset a running read ends only by `finish(OK)`, at a second checksum byte, or by `finish(TIMEOUT)`, in a silent
cycle with the timeout expired. -/
def Obligations.ReadEndsOnlyByFinish : Prop :=
  ∀ s t : State, step s = .next t → (currentInput s).rst = false → s.dec.state ≠ .idle → t.dec.state = .idle →
    t.dec.done = true ∧
    ((t.dec.result = .ok ∧ (∃ b, Consumes s b) ∧ s.dec.state = .cksum ∧ s.dec.idx = 1) ∨
     (t.dec.result = .timeout ∧ Silent s ∧ s.dec.lTimeout.toNat ≤ s.dec.sc.toNat))

/-! ### Whole-machine rules -/

/-- R700, R135, R119, R414, R132: from every state that meets the invariant, a cycle with any inputs gives a next state that meets it: no
input, command, access or byte stream stops the codec. -/
def Obligations.EveryCycleKeepsTheInvariant : Prop :=
  ∀ s : State, s.Inv → ∃ t, step s = .next t ∧ t.Inv

/-- Every cycle keeps `acc` equal to the checksum recomputed over what the payload rule has stored (R472, R561), with `RESP_PARAM` and
`RESP_CODE` exact while a read runs (log 6). -/
def Obligations.RunningChecksumIsTheRecomputedOne : Prop :=
  ∀ s t : State, s.Inv → s.AccExact → step s = .next t → t.AccExact

/-- R1, R2: the encoder's next state and the host's registers depend on nothing of the decoder, its buffer, its streams or the tick. -/
def Obligations.EncoderIndependentOfDecoder : Prop :=
  ∀ s₁ s₂ t₁ t₂ : State, step s₁ = .next t₁ → step s₂ = .next t₂ →
    s₁.enc = s₂.enc → s₁.regs = s₂.regs → s₁.params = s₂.params →
    (currentInput s₁).rst = (currentInput s₂).rst → (currentInput s₁).bus = (currentInput s₂).bus →
    (currentInput s₁).txReady = (currentInput s₂).txReady →
    t₁.enc = t₂.enc ∧ t₁.regs = t₂.regs ∧
    t₁.env.out.txValid = t₂.env.out.txValid ∧ t₁.env.out.txData = t₂.env.out.txData

/-- R1, R2: the decoder's next state, `BUF`, the sink and what is consumed depend on nothing of the encoder or of `tx_ready`. -/
def Obligations.DecoderIndependentOfEncoder : Prop :=
  ∀ s₁ s₂ t₁ t₂ : State, step s₁ = .next t₁ → step s₂ = .next t₂ →
    s₁.dec = s₂.dec → s₁.buf = s₂.buf → s₁.draws = s₂.draws → s₁.regs = s₂.regs → s₁.params = s₂.params →
    s₁.env.rxQueue = s₂.env.rxQueue →
    currentInput s₁ = { currentInput s₂ with txReady := (currentInput s₁).txReady } →
    t₁.dec = t₂.dec ∧ t₁.buf = t₂.buf ∧ t₁.draws = t₂.draws ∧ t₁.sink = t₂.sink ∧ t₁.regs = t₂.regs ∧
    t₁.env.rxQueue = t₂.env.rxQueue

/-- R456, R457, R741: a running read whose deadline has just been restarted, with a tick and no byte in every cycle and no reset, is still
running after `l_timeout` cycles and ends with TIMEOUT in the next one. -/
def Obligations.SilenceTimesOutExactly : Prop :=
  ∀ (s : State) (l : List CycleIn) (c : CycleIn) (rest : List CycleIn),
    s.Inv → s.dec.state ≠ .idle → s.dec.sc = 0 →
    s.env.schedule = l ++ c :: rest → l.length = s.dec.lTimeout.toNat →
    (∀ x ∈ l, x.rst = false ∧ x.rxOffer = false ∧ x.tick = true) → c.rst = false → c.rxOffer = false →
    ∃ t u, steps l.length s = .next t ∧ t.dec.state = s.dec.state ∧ t.dec.sc = s.dec.lTimeout ∧
      step t = .next u ∧ u.dec.state = .idle ∧ u.dec.done = true ∧ u.dec.result = .timeout ∧ u.dec.count = s.dec.count

/-- R485, R487, R303: from a cleared shift register, after exactly a frame's length of consumed bytes, the read has ended if and only if the
bytes are a frame the latched values accept; it then ended with OK. -/
def Obligations.FrameAcceptedExactlyWhenValid : Prop :=
  ∀ (s : State) (f : List Byte), s.Inv → s.dec.state = .seek → s.dec.srFill = 0 →
    f.length = s.dec.lLen.toNat + 6 → FrameOffered s f →
    ∃ t, steps f.length s = .next t ∧
      (t.dec.state = .idle ↔ frameValid s.dec f) ∧
      (frameValid s.dec f → t.dec.done = true ∧ t.dec.result = .ok ∧ t.dec.count = s.dec.lLen)

/-- R516, R511: a valid response frame consumed from SEEK ends the `READ_RESP` with OK, its parameter and response code delivered
little-endian, `DEC_COUNT` = 6. The byte before the frame must not complete the pair with the frame's first byte (R486). -/
def Obligations.ValidResponseIsReturned : Prop :=
  ∀ (s : State) (f : List Byte), s.Inv → s.dec.state = .seek → s.dec.mode = .resp →
    (s.dec.srFill = 0 ∨ (s.dec.sr.extractLsb' 0 8 : Byte) ≠ s.dec.lS1 ∨ s.dec.lS1 ≠ s.dec.lS2) →
    frameValid s.dec f → FrameOffered s f →
    ∃ t, steps 12 s = .next t ∧ t.dec.state = .idle ∧ t.dec.done = true ∧ t.dec.result = .ok ∧ t.dec.count = 6 ∧
      t.dec.respParam = payloadAt f 3 ++ payloadAt f 2 ++ payloadAt f 1 ++ payloadAt f 0 ∧
      t.dec.respCode = payloadAt f 5 ++ payloadAt f 4 ∧
      (∀ i, bufByte t i = bufByte s i)

/-- R561, R574, R302: a valid data frame consumed from SEEK ends the `READ_DATA_BUF` with OK, its payload in `BUF` in order, every other
byte of `BUF` unchanged, `DEC_COUNT` the length. -/
def Obligations.ValidDataFrameFillsBuf : Prop :=
  ∀ (s : State) (f : List Byte), s.Inv → s.dec.state = .seek → s.dec.mode = .dbuf →
    (s.dec.srFill = 0 ∨ (s.dec.sr.extractLsb' 0 8 : Byte) ≠ s.dec.lS1 ∨ s.dec.lS1 ≠ s.dec.lS2) →
    frameValid s.dec f → FrameOffered s f →
    ∃ t, steps f.length s = .next t ∧ t.dec.state = .idle ∧ t.dec.done = true ∧ t.dec.result = .ok ∧
      t.dec.count = s.dec.lLen ∧
      (∀ i, bufByte t i = if i < s.dec.lLen.toNat then payloadAt f i else bufByte s i)

/-- R572, R573: a data frame with any checksum consumed from SEEK ends the `READ_DATA_STREAM` with OK; the sink has been given
exactly its payload, in order, and `BUF` is untouched. `sinkSeen` is the model's record of what the sink was given (log 11). -/
def Obligations.StreamFrameReachesTheSink : Prop :=
  ∀ (s : State) (f : List Byte), s.Inv → s.dec.state = .seek → s.dec.mode = .dstream → s.sink.valid = false →
    (s.dec.srFill = 0 ∨ (s.dec.sr.extractLsb' 0 8 : Byte) ≠ s.dec.lS1 ∨ s.dec.lS1 ≠ s.dec.lS2) →
    frameValid s.dec f → FrameOffered s f →
    ∃ t, steps f.length s = .next t ∧ t.dec.state = .idle ∧ t.dec.done = true ∧ t.dec.result = .ok ∧
      t.dec.count = s.dec.lLen ∧
      t.env.sinkSeen = s.env.sinkSeen ++ (f.drop 4).take s.dec.lLen.toNat ∧
      (∀ i, bufByte t i = bufByte s i)

/-- R485: a valid frame with exactly one byte before its checksum changed is not accepted by a `READ_RESP` or `READ_DATA_BUF`. -/
def Obligations.SingleCorruptedByteIsRejected : Prop :=
  ∀ (s : State) (f : List Byte) (j : Nat) (v : Byte), s.Inv → s.dec.state = .seek → s.dec.srFill = 0 →
    (s.dec.mode = .resp ∨ s.dec.mode = .dbuf) → frameValid s.dec f →
    j < s.dec.lLen.toNat + 4 → v ≠ f.getD j 0 → FrameOffered s (f.set j v) →
    ∃ t, steps f.length s = .next t ∧ t.dec.state ≠ .idle ∧ t.dec.done = false
end

