-- ==== Sys2Proof/Laws/State.lean ====
section
/-! SUPPORT. One lemma per field per update of the state, each true by unfolding once, so that no later proof unfolds a record
update. -/

namespace Sys2Proof.Machine

/-! ### `reject` -/

@[simp] theorem reject_enc (s : State) : (reject s).enc = s.enc := rfl
@[simp] theorem reject_dec (s : State) : (reject s).dec = s.dec := rfl
@[simp] theorem reject_sink (s : State) : (reject s).sink = s.sink := rfl
@[simp] theorem reject_regs (s : State) : (reject s).regs = s.regs := rfl
@[simp] theorem reject_rej (s : State) : (reject s).rej = true := rfl
@[simp] theorem reject_buf (s : State) : (reject s).buf = s.buf := rfl
@[simp] theorem reject_draws (s : State) : (reject s).draws = s.draws := rfl
@[simp] theorem reject_env (s : State) : (reject s).env = s.env := rfl
@[simp] theorem reject_params (s : State) : (reject s).params = s.params := rfl

/-! ### `startRead` -/

@[simp] theorem startRead_enc (m : DecMode) (p : SyncPair) (n : Word) (s : State) : (startRead m p n s).enc = s.enc := rfl
@[simp] theorem startRead_sink (m : DecMode) (p : SyncPair) (n : Word) (s : State) : (startRead m p n s).sink = s.sink := rfl
@[simp] theorem startRead_regs (m : DecMode) (p : SyncPair) (n : Word) (s : State) : (startRead m p n s).regs = s.regs := rfl
@[simp] theorem startRead_rej (m : DecMode) (p : SyncPair) (n : Word) (s : State) : (startRead m p n s).rej = s.rej := rfl
@[simp] theorem startRead_buf (m : DecMode) (p : SyncPair) (n : Word) (s : State) : (startRead m p n s).buf = s.buf := rfl
@[simp] theorem startRead_draws (m : DecMode) (p : SyncPair) (n : Word) (s : State) : (startRead m p n s).draws = s.draws := rfl
@[simp] theorem startRead_env (m : DecMode) (p : SyncPair) (n : Word) (s : State) : (startRead m p n s).env = s.env := rfl
@[simp] theorem startRead_params (m : DecMode) (p : SyncPair) (n : Word) (s : State) : (startRead m p n s).params = s.params := rfl

/-! ### the decoder after `startRead` -/

@[simp] theorem startRead_dec_state (m : DecMode) (p : SyncPair) (n : Word) (s : State) : (startRead m p n s).dec.state = .seek := rfl
@[simp] theorem startRead_dec_mode (m : DecMode) (p : SyncPair) (n : Word) (s : State) : (startRead m p n s).dec.mode = m := rfl
@[simp] theorem startRead_dec_done (m : DecMode) (p : SyncPair) (n : Word) (s : State) : (startRead m p n s).dec.done = false := rfl
@[simp] theorem startRead_dec_result (m : DecMode) (p : SyncPair) (n : Word) (s : State) : (startRead m p n s).dec.result = .none := rfl
@[simp] theorem startRead_dec_lS1 (m : DecMode) (p : SyncPair) (n : Word) (s : State) : (startRead m p n s).dec.lS1 = p.s1 := rfl
@[simp] theorem startRead_dec_lS2 (m : DecMode) (p : SyncPair) (n : Word) (s : State) : (startRead m p n s).dec.lS2 = p.s2 := rfl
@[simp] theorem startRead_dec_lDevid (m : DecMode) (p : SyncPair) (n : Word) (s : State) : (startRead m p n s).dec.lDevid = s.regs.cfgDevid := rfl
@[simp] theorem startRead_dec_lTimeout (m : DecMode) (p : SyncPair) (n : Word) (s : State) : (startRead m p n s).dec.lTimeout = s.regs.cfgTimeout := rfl
@[simp] theorem startRead_dec_lLen (m : DecMode) (p : SyncPair) (n : Word) (s : State) : (startRead m p n s).dec.lLen = n := rfl
@[simp] theorem startRead_dec_sr (m : DecMode) (p : SyncPair) (n : Word) (s : State) : (startRead m p n s).dec.sr = 0 := rfl
@[simp] theorem startRead_dec_srFill (m : DecMode) (p : SyncPair) (n : Word) (s : State) : (startRead m p n s).dec.srFill = 0 := rfl
@[simp] theorem startRead_dec_idx (m : DecMode) (p : SyncPair) (n : Word) (s : State) : (startRead m p n s).dec.idx = 0 := rfl
@[simp] theorem startRead_dec_tmp (m : DecMode) (p : SyncPair) (n : Word) (s : State) : (startRead m p n s).dec.tmp = s.dec.tmp := rfl
@[simp] theorem startRead_dec_acc (m : DecMode) (p : SyncPair) (n : Word) (s : State) : (startRead m p n s).dec.acc = s.dec.acc := rfl
@[simp] theorem startRead_dec_sc (m : DecMode) (p : SyncPair) (n : Word) (s : State) : (startRead m p n s).dec.sc = 0 := rfl
@[simp] theorem startRead_dec_count (m : DecMode) (p : SyncPair) (n : Word) (s : State) : (startRead m p n s).dec.count = 0 := rfl
@[simp] theorem startRead_dec_respParam (m : DecMode) (p : SyncPair) (n : Word) (s : State) : (startRead m p n s).dec.respParam = s.dec.respParam := rfl
@[simp] theorem startRead_dec_respCode (m : DecMode) (p : SyncPair) (n : Word) (s : State) : (startRead m p n s).dec.respCode = s.dec.respCode := rfl

/-! ### `Decoder.resync` -/

@[simp] theorem Decoder.resync_state (d : Decoder) : (d.resync).state = .seek := rfl
@[simp] theorem Decoder.resync_mode (d : Decoder) : (d.resync).mode = d.mode := rfl
@[simp] theorem Decoder.resync_done (d : Decoder) : (d.resync).done = d.done := rfl
@[simp] theorem Decoder.resync_result (d : Decoder) : (d.resync).result = d.result := rfl
@[simp] theorem Decoder.resync_lS1 (d : Decoder) : (d.resync).lS1 = d.lS1 := rfl
@[simp] theorem Decoder.resync_lS2 (d : Decoder) : (d.resync).lS2 = d.lS2 := rfl
@[simp] theorem Decoder.resync_lDevid (d : Decoder) : (d.resync).lDevid = d.lDevid := rfl
@[simp] theorem Decoder.resync_lTimeout (d : Decoder) : (d.resync).lTimeout = d.lTimeout := rfl
@[simp] theorem Decoder.resync_lLen (d : Decoder) : (d.resync).lLen = d.lLen := rfl
@[simp] theorem Decoder.resync_sr (d : Decoder) : (d.resync).sr = 0 := rfl
@[simp] theorem Decoder.resync_srFill (d : Decoder) : (d.resync).srFill = 0 := rfl
@[simp] theorem Decoder.resync_idx (d : Decoder) : (d.resync).idx = 0 := rfl
@[simp] theorem Decoder.resync_tmp (d : Decoder) : (d.resync).tmp = d.tmp := rfl
@[simp] theorem Decoder.resync_acc (d : Decoder) : (d.resync).acc = d.acc := rfl
@[simp] theorem Decoder.resync_sc (d : Decoder) : (d.resync).sc = d.sc := rfl
@[simp] theorem Decoder.resync_count (d : Decoder) : (d.resync).count = d.count := rfl
@[simp] theorem Decoder.resync_respParam (d : Decoder) : (d.resync).respParam = d.respParam := rfl
@[simp] theorem Decoder.resync_respCode (d : Decoder) : (d.resync).respCode = d.respCode := rfl

/-! ### `Decoder.finish` -/

@[simp] theorem Decoder.finish_state (r : DecResult) (d : Decoder) : (d.finish r).state = .idle := rfl
@[simp] theorem Decoder.finish_mode (r : DecResult) (d : Decoder) : (d.finish r).mode = d.mode := rfl
@[simp] theorem Decoder.finish_done (r : DecResult) (d : Decoder) : (d.finish r).done = true := rfl
@[simp] theorem Decoder.finish_result (r : DecResult) (d : Decoder) : (d.finish r).result = r := rfl
@[simp] theorem Decoder.finish_lS1 (r : DecResult) (d : Decoder) : (d.finish r).lS1 = d.lS1 := rfl
@[simp] theorem Decoder.finish_lS2 (r : DecResult) (d : Decoder) : (d.finish r).lS2 = d.lS2 := rfl
@[simp] theorem Decoder.finish_lDevid (r : DecResult) (d : Decoder) : (d.finish r).lDevid = d.lDevid := rfl
@[simp] theorem Decoder.finish_lTimeout (r : DecResult) (d : Decoder) : (d.finish r).lTimeout = d.lTimeout := rfl
@[simp] theorem Decoder.finish_lLen (r : DecResult) (d : Decoder) : (d.finish r).lLen = d.lLen := rfl
@[simp] theorem Decoder.finish_sr (r : DecResult) (d : Decoder) : (d.finish r).sr = d.sr := rfl
@[simp] theorem Decoder.finish_srFill (r : DecResult) (d : Decoder) : (d.finish r).srFill = d.srFill := rfl
@[simp] theorem Decoder.finish_idx (r : DecResult) (d : Decoder) : (d.finish r).idx = d.idx := rfl
@[simp] theorem Decoder.finish_tmp (r : DecResult) (d : Decoder) : (d.finish r).tmp = d.tmp := rfl
@[simp] theorem Decoder.finish_acc (r : DecResult) (d : Decoder) : (d.finish r).acc = d.acc := rfl
@[simp] theorem Decoder.finish_sc (r : DecResult) (d : Decoder) : (d.finish r).sc = d.sc := rfl
@[simp] theorem Decoder.finish_count (r : DecResult) (d : Decoder) : (d.finish r).count = d.count := rfl
@[simp] theorem Decoder.finish_respParam (r : DecResult) (d : Decoder) : (d.finish r).respParam = d.respParam := rfl
@[simp] theorem Decoder.finish_respCode (r : DecResult) (d : Decoder) : (d.finish r).respCode = d.respCode := rfl

/-! ### `onlyDec` -/

@[simp] theorem onlyDec_dec (s : State) (d : Decoder) : (onlyDec s d).dec = d := rfl
@[simp] theorem onlyDec_buf (s : State) (d : Decoder) : (onlyDec s d).buf = s.buf := rfl
@[simp] theorem onlyDec_sink (s : State) (d : Decoder) : (onlyDec s d).sink = none := rfl
@[simp] theorem onlyDec_draws (s : State) (d : Decoder) : (onlyDec s d).draws = s.draws := rfl

/-! ### `assemble` -/

@[simp] theorem assemble_enc (s u : State) (d : DecoderOut) (inp : CycleIn) : (assemble s u d inp).enc = if s.enc.busy then encoderCycle s.enc inp.txReady else u.enc := rfl
@[simp] theorem assemble_dec (s u : State) (d : DecoderOut) (inp : CycleIn) : (assemble s u d inp).dec = if s.dec.busy then d.dec else u.dec := rfl
@[simp] theorem assemble_sink (s u : State) (d : DecoderOut) (inp : CycleIn) : (assemble s u d inp).sink = sinkAfter d.sink := rfl
@[simp] theorem assemble_regs (s u : State) (d : DecoderOut) (inp : CycleIn) : (assemble s u d inp).regs = u.regs := rfl
@[simp] theorem assemble_rej (s u : State) (d : DecoderOut) (inp : CycleIn) : (assemble s u d inp).rej = u.rej := rfl
@[simp] theorem assemble_buf (s u : State) (d : DecoderOut) (inp : CycleIn) : (assemble s u d inp).buf = d.buf := rfl
@[simp] theorem assemble_draws (s u : State) (d : DecoderOut) (inp : CycleIn) : (assemble s u d inp).draws = d.draws := rfl
@[simp] theorem assemble_env (s u : State) (d : DecoderOut) (inp : CycleIn) : (assemble s u d inp).env = envAfter s inp := rfl
@[simp] theorem assemble_params (s u : State) (d : DecoderOut) (inp : CycleIn) : (assemble s u d inp).params = u.params := rfl

/-! ### `resetCycle` -/

@[simp] theorem resetCycle_enc (s : State) (inp : CycleIn) : (resetCycle s inp).enc = Encoder.reset := rfl
@[simp] theorem resetCycle_dec (s : State) (inp : CycleIn) : (resetCycle s inp).dec = Decoder.reset := rfl
@[simp] theorem resetCycle_sink (s : State) (inp : CycleIn) : (resetCycle s inp).sink = SinkReg.empty := rfl
@[simp] theorem resetCycle_regs (s : State) (inp : CycleIn) : (resetCycle s inp).regs = HostRegs.reset s.params := rfl
@[simp] theorem resetCycle_rej (s : State) (inp : CycleIn) : (resetCycle s inp).rej = false := rfl
@[simp] theorem resetCycle_buf (s : State) (inp : CycleIn) : (resetCycle s inp).buf = s.buf := rfl
@[simp] theorem resetCycle_draws (s : State) (inp : CycleIn) : (resetCycle s inp).draws = s.draws := rfl
@[simp] theorem resetCycle_env (s : State) (inp : CycleIn) : (resetCycle s inp).env = envAfterReset s inp := rfl
@[simp] theorem resetCycle_params (s : State) (inp : CycleIn) : (resetCycle s inp).params = s.params := rfl

/-! ### `presentAccess` -/

@[simp] theorem presentAccess_enc (s : State) (b : BusIn) : (presentAccess s b).enc = s.enc := rfl
@[simp] theorem presentAccess_dec (s : State) (b : BusIn) : (presentAccess s b).dec = s.dec := rfl
@[simp] theorem presentAccess_sink (s : State) (b : BusIn) : (presentAccess s b).sink = s.sink := rfl
@[simp] theorem presentAccess_regs (s : State) (b : BusIn) : (presentAccess s b).regs = s.regs := rfl
@[simp] theorem presentAccess_rej (s : State) (b : BusIn) : (presentAccess s b).rej = s.rej := rfl
@[simp] theorem presentAccess_buf (s : State) (b : BusIn) : (presentAccess s b).buf = s.buf := rfl
@[simp] theorem presentAccess_draws (s : State) (b : BusIn) : (presentAccess s b).draws = s.draws := rfl
@[simp] theorem presentAccess_params (s : State) (b : BusIn) : (presentAccess s b).params = s.params := rfl

/-- The input presented by `presentAccess`: the access, no reset, the rest as listed. -/
@[simp] theorem currentInput_presentAccess (s : State) (b : BusIn) :
    currentInput (presentAccess s b) = { s.env.schedule.head?.getD CycleIn.quiet with rst := false, bus := b } := rfl

/-! ### The environment after a cycle -/

@[simp] theorem envAfter_schedule (s : State) (inp : CycleIn) : (envAfter s inp).schedule = s.env.schedule.tail := rfl
@[simp] theorem envAfter_cycle (s : State) (inp : CycleIn) : (envAfter s inp).cycle = s.env.cycle + 1 := rfl
@[simp] theorem envAfter_out (s : State) (inp : CycleIn) : (envAfter s inp).out = outputs s inp.bus := rfl
@[simp] theorem sinkAfter_some (b : Byte) : sinkAfter (some b) = { valid := true, data := b } := rfl
@[simp] theorem sinkAfter_none : sinkAfter none = { valid := false, data := 0 } := rfl

end Sys2Proof.Machine
end

