-- ==== Sys2Proof/Laws/Commands.lean ====
section
/-! SUPPORT. What a command, and the host's access of a cycle, can do: stated once, cited by every proof about a cycle. -/

namespace Sys2Proof.Machine

theorem Decoder.busy_iff (d : Decoder) : d.busy = true ↔ d.state ≠ .idle := by simp [Decoder.busy]

theorem Decoder.busy_eq_false_iff (d : Decoder) : d.busy = false ↔ d.state = .idle := by simp [Decoder.busy]

/-- Everything a command can do (R600): leave the state, set or clear `REJ`, start the idle encoder, or write the idle decoder. -/
theorem exec_cases (i : Instr) (s : State) :
    (i = .nop ∧ exec i s = .next s) ∨
    ((i = .reserved5 ∨ i = .reserved6 ∨ i = .reserved7 ∨ (i = .encode ∧ s.enc.busy = true) ∨
        ((i = .readResp ∨ i = .readDataBuf ∨ i = .readDataStream) ∧ s.dec.busy = true)) ∧
      exec i s = .next (reject s)) ∨
    (i = .clrRej ∧ exec i s = .next { s with rej := false }) ∨
    (i = .encode ∧ s.enc.busy = false ∧
      exec i s = .next { s with enc := { busy := true, done := false, frame := commandPacket s.regs, idx := 0 } }) ∨
    (i = .readResp ∧ s.dec.busy = false ∧ exec i s = .next (startRead .resp s.regs.cfgRespSync 6 s)) ∨
    (i = .readDataBuf ∧ s.dec.busy = false ∧ s.params.bufBytes < s.regs.decLen.toNat ∧
      exec i s = .next { s with dec := { s.dec with mode := .dbuf, done := true, result := .badlen } }) ∨
    (i = .readDataBuf ∧ s.dec.busy = false ∧ s.regs.decLen.toNat ≤ s.params.bufBytes ∧
      exec i s = .next (startRead .dbuf s.regs.cfgDataSync s.regs.decLen s)) ∨
    (i = .readDataStream ∧ s.dec.busy = false ∧
      exec i s = .next (startRead .dstream s.regs.cfgDataSync s.regs.decLen s)) := by
  cases he : s.enc.busy <;> cases hd : s.dec.busy <;> by_cases hl : s.params.bufBytes < s.regs.decLen.toNat <;> cases i <;>
    simp [exec, execNop, execEncode, execReadResp, execReadDataBuf, execReadDataStream, execReserved5, execReserved6,
      execReserved7, execClrRej, he, hd, hl, Nat.le_of_not_lt]

/-- What the host's access leaves alone, and what it can do to the units (R211, R600): a unit busy at the start of the cycle is
not touched. -/
theorem hostAccess_frame {b : BusIn} {s u : State} (h : hostAccess b s = .next u) :
    u.sink = s.sink ∧ u.buf = s.buf ∧ u.draws = s.draws ∧ u.env = s.env ∧ u.params = s.params ∧
    (s.enc.busy = true → u.enc = s.enc) ∧ (s.dec.busy = true → u.dec = s.dec) ∧
    (u.regs = storeAccess s.regs b) := by
  unfold hostAccess at h
  split at h
  · rename_i i hi
    have hr : storeAccess s.regs b = s.regs := by
      unfold decode at hi
      unfold storeAccess
      split at hi
      · simp_all
      · split at hi
        · simp_all
        · split at hi
          · rename_i hp; simp [hp, writeRegister]
          · rename_i hp; simp [hp, writeRegister]
          · simp at hi
    rw [hr]
    rcases exec_cases i s with ⟨-, e⟩ | ⟨-, e⟩ | ⟨-, e⟩ | ⟨-, he, e⟩ | ⟨-, hd, e⟩ | ⟨-, hd, -, e⟩ | ⟨-, hd, -, e⟩ | ⟨-, hd, e⟩ <;>
      rw [e] at h <;> cases h <;> simp_all
  · cases h; simp

/-- The host's access never stops the machine (R700). -/
theorem hostAccess_next (b : BusIn) (s : State) : ∃ u, hostAccess b s = .next u := by
  unfold hostAccess
  split
  · rename_i i _
    rcases exec_cases i s with ⟨-, e⟩ | ⟨-, e⟩ | ⟨-, e⟩ | ⟨-, he, e⟩ | ⟨-, hd, e⟩ | ⟨-, hd, -, e⟩ | ⟨-, hd, -, e⟩ | ⟨-, hd, e⟩ <;>
      exact ⟨_, e⟩
  · exact ⟨_, rfl⟩

/-- Without an access the host's part of a cycle changes nothing. -/
@[simp] theorem hostAccess_idle (s : State) : hostAccess BusIn.idle s = .next s := by
  simp [hostAccess, decode, BusIn.idle, storeAccess]

/-- A read changes nothing (R210). -/
@[simp] theorem hostAccess_read (addr : BitVec 13) (s : State) : hostAccess (BusIn.read addr) s = .next s := by
  simp [hostAccess, decode, BusIn.read, storeAccess]

/-- An access that decodes to a command is that command. -/
theorem hostAccess_of_decode {b : BusIn} {i : Instr} (h : decode b = .ok i) (s : State) : hostAccess b s = exec i s := by
  simp [hostAccess, h]

/-- Everything the host's access can do: run the command it is, or store at most a register. -/
theorem hostAccess_cases {b : BusIn} {s u : State} (h : hostAccess b s = .next u) :
    (∃ i, decode b = .ok i ∧ exec i s = .next u) ∨
    ((∃ e, decode b = .error e) ∧ u = { s with regs := storeAccess s.regs b }) := by
  unfold hostAccess at h
  split at h
  · rename_i i hi; exact .inl ⟨i, hi, h⟩
  · rename_i e he; cases h; exact .inr ⟨⟨e, he⟩, rfl⟩

end Sys2Proof.Machine
end

