-- ==== Sys2Proof/Laws/Decoder.lean ====
section
/-! SUPPORT. What the decoder's part of a cycle can do, one lemma per state, and one inversion lemma over all of them. -/

namespace Sys2Proof.Machine

/-- Everything `setByte` does: byte `i` becomes `b`, every other byte is kept. -/
theorem byteOf_setByte {n : Nat} (v : BitVec n) (i j : Nat) (b : Byte) (hi : 8 * i + 8 ≤ n) (hj : 8 * j + 8 ≤ n) :
    byteOf (setByte v i b) j = if j = i then b else byteOf v j := by
  apply BitVec.eq_of_getLsbD_eq
  intro k hk
  have hmask : ∀ m, (0xFF#n).getLsbD m = (decide (m < n) && decide (m < 8)) := by
    intro m
    have h255 : (255 : Nat) = 2 ^ 8 - 1 := by norm_num
    rw [BitVec.getLsbD_ofNat, h255, Nat.testBit_two_pow_sub_one]
  by_cases hji : j = i
  · subst hji
    have h1 : 8 * j + k < n := by omega
    have h2 : k < n := by omega
    simp [byteOf, setByte, hk, h1, hmask, h2]
  · have h1 : 8 * j + k < n := by omega
    rcases Nat.lt_or_gt_of_ne hji with h | h
    · have h3 : 8 * j + k < 8 * i := by omega
      simp [byteOf, setByte, hk, h1, hji, h3]
    · have h3 : ¬ 8 * j + k < 8 * i := by omega
      have h4 : ¬ 8 * j + k - 8 * i < 8 := by omega
      have h5 : b.getLsbD (8 * j + k - 8 * i) = false := BitVec.getLsbD_of_ge b _ (Nat.le_of_not_lt h4)
      simp only [byteOf, setByte, hji, if_false, BitVec.getLsbD_extractLsb', hk, decide_true, Bool.true_and, BitVec.getLsbD_or,
        BitVec.getLsbD_and, BitVec.getLsbD_not, BitVec.getLsbD_shiftLeft, BitVec.getLsbD_setWidth, h1, h3, hmask, h4, h5]
      simp

/-- The byte concatenation of `half` determines both bytes. -/
theorem half_inj {a b c d : Byte} : half a b = half c d ↔ a = c ∧ b = d := by
  constructor
  · intro h
    have hn := congrArg BitVec.toNat h
    simp only [half, BitVec.toNat_append] at hn
    have h1 := b.isLt
    have h2 := d.isLt
    have e1 : a.toNat <<< 8 ||| b.toNat = a.toNat * 256 + b.toNat := by
      rw [← Nat.shiftLeft_add_eq_or_of_lt h1, Nat.shiftLeft_eq]
    have e2 : c.toNat <<< 8 ||| d.toNat = c.toNat * 256 + d.toNat := by
      rw [← Nat.shiftLeft_add_eq_or_of_lt h2, Nat.shiftLeft_eq]
    rw [e1, e2] at hn
    exact ⟨BitVec.eq_of_toNat_eq (by omega), BitVec.eq_of_toNat_eq (by omega)⟩
  · rintro ⟨rfl, rfl⟩; rfl

/-- `sum16` of a list and one more byte: what adding a byte to the running checksum does (R303, R468). -/
theorem sum16_append_singleton (bs : List Byte) (b : Byte) : sum16 (bs ++ [b]) = sum16 bs + b.setWidth 16 := by
  simp [sum16]

@[simp] theorem sum16_nil : sum16 [] = 0 := rfl

/-- An idle decoder: nothing consumed, nothing changed (R455). -/
theorem decoderCycle_idle {s : State} (h : s.dec.busy = false) (rx : Option Byte) (tick : Bool) :
    decoderCycle s rx tick = .ok (onlyDec s s.dec) := by simp [decoderCycle, h]

/-- A silent cycle of a running read (R456). -/
theorem decoderCycle_silent {s : State} (h : s.dec.busy = true) (tick : Bool) :
    decoderCycle s none tick = .ok (silentCycle s tick) := by simp [decoderCycle, h]

/-- A cycle that consumes a byte (R455). -/
theorem decoderCycle_consume {s : State} (h : s.dec.busy = true) (b : Byte) (tick : Bool) :
    decoderCycle s (some b) tick = consumeByte s b := by simp [decoderCycle, h]

/-- The common part of a payload byte (R468), as one record. -/
theorem payloadCount_eq {d : Decoder} (b : Byte) (h : d.state = .payload) :
    payloadCount d b = { d with
      acc := d.acc + b.setWidth 16, count := d.count + 1
      state := if d.idx + 1 = d.lLen then .cksum else .payload
      idx := if d.idx + 1 = d.lLen then 0 else d.idx + 1 } := by
  unfold payloadCount
  by_cases hx : d.idx + 1 = d.lLen
  · simp only [hx, if_true]
  · simp only [hx, if_false, h]

/-- SEEK as one record each way (R460): a match needs two bytes since the last clear, the older the latched `S1` and the newer
the latched `S2`. -/
theorem seekByte_eq (d : Decoder) (b : Byte) :
    seekByte d b =
      if min (d.srFill.toNat + 1) 2 = 2 ∧ (d.sr.extractLsb' 0 8 : Byte) = d.lS1 ∧ b = d.lS2 then
        { d with
          sr := (d.sr.extractLsb' 0 8 : Byte) ++ b, srFill := BitVec.ofNat 2 (min (d.srFill.toNat + 1) 2)
          state := .devid, idx := 0, acc := d.lS1.setWidth 16 + d.lS2.setWidth 16 }
      else { d with
          sr := (d.sr.extractLsb' 0 8 : Byte) ++ b, srFill := BitVec.ofNat 2 (min (d.srFill.toNat + 1) 2) } := by
  have hx : d.sr.setWidth 8 = d.sr.extractLsb' 0 8 := by
    apply BitVec.eq_of_getLsbD_eq; intro k hk; simp [hk]
  simp only [seekByte, hx, half_inj]
  rfl

/-- The decoder after the common part of a consumed byte and a payload byte (R455, R468). -/
def afterPayload (d : Decoder) (b : Byte) : Decoder :=
  { d with
    sc := 0, acc := d.acc + b.setWidth 16, count := d.count + 1
    state := if d.idx + 1 = d.lLen then .cksum else .payload
    idx := if d.idx + 1 = d.lLen then 0 else d.idx + 1 }

/-! ### A consumed byte, state by state -/

section
variable {s : State} (b : Byte)

theorem consume_seek (hs : s.dec.state = .seek) :
    consumeByte s b = .ok (onlyDec s (seekByte { s.dec with sc := 0 } b)) := by simp [consumeByte, hs]

theorem consume_devid_first (hs : s.dec.state = .devid) (hi : s.dec.idx = 0) :
    consumeByte s b = .ok (onlyDec s { s.dec with sc := 0, tmp := b, idx := 1 }) := by
  simp [consumeByte, hs, devidByte, hi, Except.map]

theorem consume_devid_mismatch (hs : s.dec.state = .devid) (hi : s.dec.idx = 1) (hn : half b s.dec.tmp ≠ s.dec.lDevid) :
    consumeByte s b = .ok (onlyDec s { s.dec with sc := 0, state := .seek, sr := 0, srFill := 0, idx := 0 }) := by
  simp [consumeByte, hs, devidByte, hi, Except.map, hn, Decoder.resync]

theorem consume_devid_match (hs : s.dec.state = .devid) (hi : s.dec.idx = 1) (hn : half b s.dec.tmp = s.dec.lDevid) :
    consumeByte s b = .ok (onlyDec s { s.dec with
      sc := 0, acc := s.dec.acc + s.dec.tmp.setWidth 16 + b.setWidth 16, idx := 0, count := 0
      state := if s.dec.lLen = 0 then .cksum else .payload }) := by
  simp [consumeByte, hs, devidByte, hi, Except.map, hn]

theorem consume_payload_param (hs : s.dec.state = .payload) (hm : s.dec.mode = .resp) (hi : s.dec.idx.toNat ≤ 3) :
    consumeByte s b = .ok (onlyDec s
      { afterPayload s.dec b with respParam := setByte s.dec.respParam s.dec.idx.toNat b }) := by
  simp only [consumeByte, hs, payloadByte, hm, deliverResp, hi, if_true, bind, Except.bind]
  rw [payloadCount_eq b rfl]
  simp only [afterPayload, hm, onlyDec]

theorem consume_payload_code (hs : s.dec.state = .payload) (hm : s.dec.mode = .resp) (hi : ¬ s.dec.idx.toNat ≤ 3)
    (hj : s.dec.idx.toNat ≤ 5) :
    consumeByte s b = .ok (onlyDec s
      { afterPayload s.dec b with respCode := setByte s.dec.respCode (s.dec.idx.toNat - 4) b }) := by
  simp only [consumeByte, hs, payloadByte, hm, deliverResp, hi, hj, if_true, if_false, bind, Except.bind]
  rw [payloadCount_eq b rfl]
  simp only [afterPayload, hm, onlyDec]

theorem consume_payload_dbuf (hs : s.dec.state = .payload) (hm : s.dec.mode = .dbuf)
    (hi : s.dec.idx.toNat < s.params.bufBytes) :
    consumeByte s b = .ok { onlyDec s (afterPayload s.dec b) with buf := Memory.store s.buf s.dec.idx.toNat b } := by
  simp only [consumeByte, hs, payloadByte, hm, hi, if_true]
  rw [payloadCount_eq b rfl]
  simp only [afterPayload, hm, onlyDec]

theorem consume_payload_stream (hs : s.dec.state = .payload) (hm : s.dec.mode = .dstream) :
    consumeByte s b = .ok { onlyDec s (afterPayload s.dec b) with sink := some b } := by
  simp only [consumeByte, hs, payloadByte, hm]
  rw [payloadCount_eq b rfl]
  simp only [afterPayload, hm, onlyDec]

theorem consume_cksum_first (hs : s.dec.state = .cksum) (hi : s.dec.idx = 0) :
    consumeByte s b = .ok (onlyDec s { s.dec with sc := 0, tmp := b, idx := 1 }) := by
  simp [consumeByte, hs, cksumByte, hi, Except.map]

theorem consume_cksum_mismatch (hs : s.dec.state = .cksum) (hi : s.dec.idx = 1) (hm : s.dec.mode ≠ .dstream)
    (hn : half b s.dec.tmp ≠ s.dec.acc) :
    consumeByte s b = .ok (onlyDec s { s.dec with sc := 0, state := .seek, sr := 0, srFill := 0, idx := 0 }) := by
  simp [consumeByte, hs, cksumByte, hi, Except.map, hn, hm, Decoder.resync]

theorem consume_cksum_accept (hs : s.dec.state = .cksum) (hi : s.dec.idx = 1)
    (hn : half b s.dec.tmp = s.dec.acc ∨ s.dec.mode = .dstream) :
    consumeByte s b = .ok (onlyDec s { s.dec with sc := 0, state := .idle, done := true, result := .ok }) := by
  have h : ¬ (s.dec.mode ≠ .dstream ∧ half b s.dec.tmp ≠ s.dec.acc) := by
    rintro ⟨h1, h2⟩; rcases hn with hn | hn <;> contradiction
  have h10 : ¬ (1 : Word) = 0 := by decide
  simp only [consumeByte, hs, cksumByte, hi, h10, if_false, if_true, if_neg h, Except.map]
  rfl

end

/-- Everything a consumed byte can do in a running read (R460 to R472, R510, R560, R570). -/
theorem consumeByte_cases {s : State} {b : Byte} {d : DecoderOut} (hb : s.dec.state ≠ .idle) (h : consumeByte s b = .ok d) :
    (s.dec.state = .seek ∧ d = onlyDec s (seekByte { s.dec with sc := 0 } b)) ∨
    (s.dec.state = .devid ∧ s.dec.idx = 0 ∧ d = onlyDec s { s.dec with sc := 0, tmp := b, idx := 1 }) ∨
    (s.dec.state = .devid ∧ s.dec.idx = 1 ∧ half b s.dec.tmp ≠ s.dec.lDevid ∧
      d = onlyDec s { s.dec with sc := 0, state := .seek, sr := 0, srFill := 0, idx := 0 }) ∨
    (s.dec.state = .devid ∧ s.dec.idx = 1 ∧ half b s.dec.tmp = s.dec.lDevid ∧
      d = onlyDec s { s.dec with
        sc := 0, acc := s.dec.acc + s.dec.tmp.setWidth 16 + b.setWidth 16, idx := 0, count := 0
        state := if s.dec.lLen = 0 then .cksum else .payload }) ∨
    (s.dec.state = .payload ∧ s.dec.mode = .resp ∧ s.dec.idx.toNat ≤ 3 ∧
      d = onlyDec s { afterPayload s.dec b with respParam := setByte s.dec.respParam s.dec.idx.toNat b }) ∨
    (s.dec.state = .payload ∧ s.dec.mode = .resp ∧ ¬ s.dec.idx.toNat ≤ 3 ∧ s.dec.idx.toNat ≤ 5 ∧
      d = onlyDec s { afterPayload s.dec b with respCode := setByte s.dec.respCode (s.dec.idx.toNat - 4) b }) ∨
    (s.dec.state = .payload ∧ s.dec.mode = .dbuf ∧ s.dec.idx.toNat < s.params.bufBytes ∧
      d = { onlyDec s (afterPayload s.dec b) with buf := Memory.store s.buf s.dec.idx.toNat b }) ∨
    (s.dec.state = .payload ∧ s.dec.mode = .dstream ∧
      d = { onlyDec s (afterPayload s.dec b) with sink := some b }) ∨
    (s.dec.state = .cksum ∧ s.dec.idx = 0 ∧ d = onlyDec s { s.dec with sc := 0, tmp := b, idx := 1 }) ∨
    (s.dec.state = .cksum ∧ s.dec.idx = 1 ∧ s.dec.mode ≠ .dstream ∧ half b s.dec.tmp ≠ s.dec.acc ∧
      d = onlyDec s { s.dec with sc := 0, state := .seek, sr := 0, srFill := 0, idx := 0 }) ∨
    (s.dec.state = .cksum ∧ s.dec.idx = 1 ∧ (half b s.dec.tmp = s.dec.acc ∨ s.dec.mode = .dstream) ∧
      d = onlyDec s { s.dec with sc := 0, state := .idle, done := true, result := .ok }) := by
  cases hs : s.dec.state
  case idle => exact absurd hs hb
  case seek => rw [consume_seek b hs] at h; cases h; simp
  case devid =>
    by_cases h0 : s.dec.idx = 0
    · rw [consume_devid_first b hs h0] at h; cases h; simp [h0]
    · by_cases h1 : s.dec.idx = 1
      · by_cases hn : half b s.dec.tmp = s.dec.lDevid
        · rw [consume_devid_match b hs h1 hn] at h; cases h; simp [h1, hn]
        · rw [consume_devid_mismatch b hs h1 hn] at h; cases h; simp [h1, hn]
      · simp only [consumeByte, hs, devidByte, h0, h1, if_false, Except.map] at h; cases h
  case payload =>
    cases hm : s.dec.mode
    case none => simp only [consumeByte, hs, payloadByte, hm] at h; cases h
    case resp =>
      by_cases h3 : s.dec.idx.toNat ≤ 3
      · rw [consume_payload_param b hs hm h3] at h; cases h; simp [h3]
      · by_cases h5 : s.dec.idx.toNat ≤ 5
        · rw [consume_payload_code b hs hm h3 h5] at h; cases h; simp only [h3, h5]; tauto
        · simp only [consumeByte, hs, payloadByte, hm, deliverResp, h3, h5, if_false, bind, Except.bind] at h; cases h
    case dbuf =>
      by_cases hi : s.dec.idx.toNat < s.params.bufBytes
      · rw [consume_payload_dbuf b hs hm hi] at h; cases h; simp [hi]
      · simp only [consumeByte, hs, payloadByte, hm, hi, if_false] at h; cases h
    case dstream => rw [consume_payload_stream b hs hm] at h; cases h; simp
  case cksum =>
    by_cases h0 : s.dec.idx = 0
    · rw [consume_cksum_first b hs h0] at h; cases h; simp [h0]
    · by_cases h1 : s.dec.idx = 1
      · by_cases hn : half b s.dec.tmp = s.dec.acc ∨ s.dec.mode = .dstream
        · rw [consume_cksum_accept b hs h1 hn] at h; cases h; simp [h1, hn]
        · have hm : s.dec.mode ≠ .dstream := fun e => hn (.inr e)
          have ha : half b s.dec.tmp ≠ s.dec.acc := fun e => hn (.inl e)
          rw [consume_cksum_mismatch b hs h1 hm ha] at h; cases h; simp [h1, hm, ha]
      · simp only [consumeByte, hs, cksumByte, h0, h1, if_false, Except.map] at h; cases h

/-- `finish(TIMEOUT)` each way (R480, R515). -/
theorem timeoutRead_cases (s : State) :
    (s.dec.mode = .resp ∧ timeoutRead s =
      { onlyDec s { s.dec with
          state := .idle, done := true, result := .timeout
          respParam := Config.freeRespParam s.draws, respCode := Config.freeRespCode s.draws } with
        draws := s.draws + 1 }) ∨
    (s.dec.mode ≠ .resp ∧ timeoutRead s =
      onlyDec s { s.dec with state := .idle, done := true, result := .timeout }) := by
  by_cases h : s.dec.mode = .resp
  · left; exact ⟨h, by simp only [timeoutRead, Decoder.finish_mode, h, if_true]; rfl⟩
  · right; exact ⟨h, by simp only [timeoutRead, Decoder.finish_mode, h, if_false]; rfl⟩

/-- Everything a silent cycle can do (R456, R515). -/
theorem silentCycle_cases (s : State) (tick : Bool) :
    (s.dec.lTimeout ≤ s.dec.sc ∧ silentCycle s tick = timeoutRead s) ∨
    (¬ s.dec.lTimeout ≤ s.dec.sc ∧ tick = true ∧ silentCycle s tick =
      onlyDec s { s.dec with sc := BitVec.ofNat 32 (min (s.dec.sc.toNat + 1) (2 ^ 32 - 1)) }) ∨
    (¬ s.dec.lTimeout ≤ s.dec.sc ∧ tick = false ∧ silentCycle s tick = onlyDec s s.dec) := by
  unfold silentCycle
  by_cases h : s.dec.lTimeout ≤ s.dec.sc <;> cases tick <;> simp [h]

end Sys2Proof.Machine
end

