-- ==== Sys2Proof/Laws/Step.lean ====
section
/-! SUPPORT. What a step can do: one inversion lemma, and the step when its parts are known. -/

namespace Sys2Proof.Machine

/-- A cycle with `rst` = 1 is the reset cycle (R800). -/
theorem step_of_rst {s : State} (h : (currentInput s).rst = true) : step s = .next (resetCycle s (currentInput s)) := by
  simp [step, cycle, h]

/-- A cycle with `rst` = 0 whose parts are known (R141). -/
theorem step_of_parts {s u : State} {d : DecoderOut} (hr : (currentInput s).rst = false)
    (hu : hostAccess (currentInput s).bus s = .next u)
    (hd : decoderCycle s (rxOffered s (currentInput s)) (currentInput s).tick = .ok d) :
    step s = .next (assemble s u d (currentInput s)) := by
  simp [step, cycle, hr, hu, hd]

/-- Everything a step can do: a reset cycle, or the parts of R141 put together. -/
theorem step_cases {s t : State} (h : step s = .next t) :
    ((currentInput s).rst = true ∧ t = resetCycle s (currentInput s)) ∨
    ((currentInput s).rst = false ∧ ∃ u d, hostAccess (currentInput s).bus s = .next u ∧
      decoderCycle s (rxOffered s (currentInput s)) (currentInput s).tick = .ok d ∧
      t = assemble s u d (currentInput s)) := by
  cases hr : (currentInput s).rst
  · right
    refine ⟨rfl, ?_⟩
    obtain ⟨u, hu⟩ := hostAccess_next (currentInput s).bus s
    simp only [step, cycle, hr, hu] at h
    cases hd : decoderCycle s (rxOffered s (currentInput s)) (currentInput s).tick with
    | error f => simp [hd] at h
    | ok d => simp [hd] at h; exact ⟨u, d, hu, rfl, h.symm⟩
  · left
    rw [step_of_rst hr] at h
    exact ⟨rfl, by simpa using h.symm⟩

/-- A decoder busy at the start of the cycle takes its own step. -/
theorem assemble_dec_of_running {s u : State} {d : DecoderOut} {inp : CycleIn} (h : s.dec.state ≠ .idle) :
    (assemble s u d inp).dec = d.dec := by
  simp [Decoder.busy, h]

/-- A cycle of a running read with a byte offered: what the consumed byte does, put together with the rest. -/
theorem step_consume {s : State} {b : Byte} {d : DecoderOut} (hr : (currentInput s).rst = false)
    (hb : s.dec.state ≠ .idle) (ho : rxOffered s (currentInput s) = some b) (hd : consumeByte s b = .ok d) :
    ∃ u, hostAccess (currentInput s).bus s = .next u ∧ step s = .next (assemble s u d (currentInput s)) := by
  obtain ⟨u, hu⟩ := hostAccess_next (currentInput s).bus s
  exact ⟨u, hu, step_of_parts hr hu (by rw [ho, decoderCycle_consume ((Decoder.busy_iff _).mpr hb), hd])⟩

/-- A cycle of a running read without a byte. -/
theorem step_silent {s : State} (hr : (currentInput s).rst = false) (hb : s.dec.state ≠ .idle)
    (ho : rxOffered s (currentInput s) = none) :
    ∃ u, hostAccess (currentInput s).bus s = .next u ∧
      step s = .next (assemble s u (silentCycle s (currentInput s).tick) (currentInput s)) := by
  obtain ⟨u, hu⟩ := hostAccess_next (currentInput s).bus s
  exact ⟨u, hu, step_of_parts hr hu (by rw [ho, decoderCycle_silent ((Decoder.busy_iff _).mpr hb)])⟩

/-- Everything the decoder's part of a cycle can be: idle, a consumed byte, or silence. -/
theorem decoderCycle_cases {s : State} {rx : Option Byte} {tick : Bool} {d : DecoderOut}
    (h : decoderCycle s rx tick = .ok d) :
    (s.dec.state = .idle ∧ d = onlyDec s s.dec) ∨
    (∃ b, s.dec.state ≠ .idle ∧ rx = some b ∧ consumeByte s b = .ok d) ∨
    (s.dec.state ≠ .idle ∧ rx = none ∧ d = silentCycle s tick) := by
  by_cases hs : s.dec.state = .idle
  · rw [decoderCycle_idle ((Decoder.busy_eq_false_iff _).mpr hs)] at h
    exact .inl ⟨hs, by cases h; rfl⟩
  · have hb := (Decoder.busy_iff _).mpr hs
    cases rx with
    | none => rw [decoderCycle_silent hb] at h; exact .inr (.inr ⟨hs, rfl, by cases h; rfl⟩)
    | some b => rw [decoderCycle_consume hb] at h; exact .inr (.inl ⟨b, hs, rfl, h⟩)

end Sys2Proof.Machine
end

