-- ==== Sys2Proof/Laws/Access.lean ====
section
/-! SUPPORT. One cycle with an access against the same cycle without one: what the host's access adds to a cycle, said once. -/

namespace Sys2Proof.Machine

/-- The input `presentAccess` presents. -/
abbrev presented (s : State) (b : BusIn) : CycleIn :=
  { s.env.schedule.head?.getD CycleIn.quiet with rst := false, bus := b }

/-- The decoder's part of a cycle does not depend on the access. -/
theorem rxOffered_presented (s : State) (b b' : BusIn) : rxOffered s (presented s b) = rxOffered s (presented s b') := rfl

/-- The cycle without an access, taken apart. -/
theorem step_idle_cases {s t : State} (h : step (presentAccess s BusIn.idle) = .next t) :
    ∃ d, decoderCycle s (rxOffered s (presented s BusIn.idle)) (presented s BusIn.idle).tick = .ok d ∧
      t = assemble (presentAccess s BusIn.idle) (presentAccess s BusIn.idle) d (presented s BusIn.idle) := by
  rcases step_cases h with ⟨hr, -⟩ | ⟨-, u, d, hu, hd, rfl⟩
  · exact absurd hr (by simp)
  · refine ⟨d, hd, ?_⟩
    have e : u = presentAccess s BusIn.idle := by
      rw [show (currentInput (presentAccess s BusIn.idle)).bus = BusIn.idle from rfl, hostAccess_idle] at hu
      cases hu; rfl
    rw [e]; rfl

/-- The cycle with an access, from the decoder's part of the cycle without one. -/
theorem step_access {s u : State} {b : BusIn} {d : DecoderOut}
    (hd : decoderCycle s (rxOffered s (presented s BusIn.idle)) (presented s BusIn.idle).tick = .ok d)
    (hu : hostAccess b (presentAccess s b) = .next u) :
    step (presentAccess s b) = .next (assemble (presentAccess s b) u d (presented s b)) :=
  step_of_parts (s := presentAccess s b) rfl hu hd

/-- A write leaves the agents as a cycle without an access does. -/
theorem envAfter_write (s : State) (addr : BitVec 13) (v : Word) :
    envAfter (presentAccess s (BusIn.write addr v)) (presented s (BusIn.write addr v)) =
      envAfter (presentAccess s BusIn.idle) (presented s BusIn.idle) := by
  simp only [envAfter, outputs, busRdata, BusIn.write, BusIn.idle, rxOffered, rxHeld]
  rfl

/-- What a write adds to the cycle without an access: `REJ`, the host's registers, and a unit idle at the start of the cycle. -/
theorem step_write {s t u : State} {addr : BitVec 13} {v : Word} (h : step (presentAccess s BusIn.idle) = .next t)
    (hu : hostAccess (BusIn.write addr v) (presentAccess s (BusIn.write addr v)) = .next u) :
    step (presentAccess s (BusIn.write addr v)) = .next { t with
      enc := if s.enc.busy then t.enc else u.enc
      dec := if s.dec.busy then t.dec else u.dec
      regs := u.regs
      rej := u.rej } := by
  obtain ⟨d, hd, rfl⟩ := step_idle_cases h
  rw [step_access hd hu]
  have hf := hostAccess_frame hu
  simp only [assemble, envAfter_write]
  congr 1
  cases he : s.enc.busy <;> cases hdd : s.dec.busy <;> simp [he, hdd, hf]

/-- The cycle without an access leaves the host's registers, `REJ`, the parameters and every idle unit. -/
theorem step_idle_frame {s t : State} (h : step (presentAccess s BusIn.idle) = .next t) :
    t.regs = s.regs ∧ t.rej = s.rej ∧ t.params = s.params ∧
    (s.enc.busy = false → t.enc = s.enc) ∧ (s.dec.busy = false → t.dec = s.dec) := by
  obtain ⟨d, hd, rfl⟩ := step_idle_cases h
  refine ⟨rfl, rfl, rfl, ?_, ?_⟩ <;> intro hb <;> simp [hb]

/-- The encoding of a command is a write. -/
theorem encodeWith_is_write (i : Instr) (alow : BitVec 2) (junk : Word) :
    ∃ addr v, encodeWith i alow junk = BusIn.write addr v := by
  cases i <;> exact ⟨_, _, rfl⟩

/-- What a command adds to the cycle without an access, where its encoding decodes to it. -/
theorem step_command {s t u : State} {i : Instr} {alow : BitVec 2} {junk : Word}
    (hdec : decode (encodeWith i alow junk) = .ok i) (h : step (presentAccess s BusIn.idle) = .next t) (hu : ∀ b, exec i (presentAccess s b) = .next (presentAccess u b)) :
    step (presentAccess s (encodeWith i alow junk)) = .next { t with
      enc := if s.enc.busy then t.enc else u.enc
      dec := if s.dec.busy then t.dec else u.dec
      regs := u.regs
      rej := u.rej } := by
  obtain ⟨addr, v, e⟩ := encodeWith_is_write i alow junk
  rw [e] at hdec ⊢
  exact step_write h (u := presentAccess u (BusIn.write addr v)) (by rw [hostAccess_of_decode hdec]; exact hu _)

end Sys2Proof.Machine
end

