-- ==== Sys2Proof/Laws/Decode.lean ====
section
/-! SUPPORT. The laws of decoding: what a byte address names, as numbers, and what a write of `CTRL` or `STATUS` decodes to. -/

namespace Sys2Proof

/-- The word a byte address names is its quotient by 4: bits [1:0] are ignored (R200). -/
theorem wordIndex_toNat (addr : BitVec 13) : (wordIndex addr).toNat = addr.toNat / 4 := by
  have := addr.isLt
  simp only [wordIndex, BitVec.extractLsb'_toNat, Nat.shiftRight_eq_div_pow]
  omega

/-- What stands at a byte address, by the number of its word (R201). -/
theorem place_eq (addr : BitVec 13) :
    place addr = if 0x400 ≤ addr.toNat / 4 then .bufWord (addr.toNat / 4 - 0x400) else registerAt (addr.toNat / 4) := by
  simp [place, wordIndex_toNat]

/-- No word of the register region from 13 on is a register (R110). -/
theorem registerAt_reserved {w : Nat} (h : 13 ≤ w) : registerAt w = .reserved := by
  match w, h with
  | n + 13, _ => rfl

/-- Every address of `CTRL`'s word names `CTRL`. -/
theorem place_ctrl (alow : BitVec 2) : place (wordIndex Reg.ctrl.offset ++ alow) = .reg .ctrl := by
  revert alow; decide

/-- Every address of `STATUS`'s word names `STATUS`. -/
theorem place_status (alow : BitVec 2) : place (wordIndex Reg.status.offset ++ alow) = .reg .status := by
  revert alow; decide

/-- A write of `CTRL` is the command its low three bits select (R320). -/
theorem decode_write_ctrl {addr : BitVec 13} (h : place addr = .reg .ctrl) (v : Word) :
    decode (BusIn.write addr v) = .ok (instrOfCmd (cmdField v)) := by
  simp [decode, BusIn.write, h]

/-- A write of `STATUS` is the `REJ` clear if bit 8 is set, and no command otherwise (R620). -/
theorem decode_write_status {addr : BitVec 13} (h : place addr = .reg .status) (v : Word) :
    decode (BusIn.write addr v) = if v.getLsbD 8 then .ok .clrRej else .error .statusWithoutClear := by
  simp [decode, BusIn.write, h]

/-- The command field of a word made of any high bits and a code is that code (R321). -/
theorem cmdField_append (hi : BitVec 29) (c : BitVec 3) : cmdField (hi ++ c) = c := by
  apply BitVec.eq_of_getLsbD_eq
  intro k hk
  rw [cmdField, BitVec.getLsbD_extractLsb', BitVec.getLsbD_append]
  simp [hk]

/-- The command a code selects, by its number (R320). -/
theorem instrOfCmd_eq (c : BitVec 3) :
    instrOfCmd c = (match c.toNat with
      | 0 => Instr.nop
      | 1 => Instr.encode
      | 2 => Instr.readResp
      | 3 => Instr.readDataBuf
      | 4 => Instr.readDataStream
      | 5 => Instr.reserved5
      | 6 => Instr.reserved6
      | _ => Instr.reserved7) := by
  revert c; decide

end Sys2Proof
end

