-- ==== Sys2Proof/Laws/Memory.lean ====
section
/-! SUPPORT. The laws of `BUF`'s memory: a read after a write, every other place alone, the canonical form kept, and what a
write does to the bytes a host reads. -/

namespace Sys2Proof.Machine

/-- A read after a write: the byte written, and every other place alone. -/
theorem Memory.lookup_store (m : List Host.Cell) (i j : Nat) (b : Byte) :
    Memory.lookup (Memory.store m i b) j = if j = i then some b else Memory.lookup m j := by
  induction m with
  | nil => simp [Memory.store, Memory.lookup]
  | cons c m ih =>
    obtain ⟨k, v⟩ := c
    simp only [Memory.store]
    split
    · simp [Memory.lookup]
    · split
      · subst_vars; simp only [Memory.lookup]; split <;> simp_all
      · simp only [Memory.lookup, ih]; split <;> split <;> simp_all

/-- What a written memory lists: the new entry and old ones. -/
theorem Memory.mem_store {m : List Host.Cell} {i : Nat} {b : Byte} {c : Host.Cell} (h : c ∈ Memory.store m i b) :
    c = (i, b) ∨ c ∈ m := by
  induction m with
  | nil => simpa [Memory.store] using h
  | cons a m ih =>
    obtain ⟨k, v⟩ := a
    simp only [Memory.store] at h
    split at h
    · simpa using h
    · split at h
      · simp only [List.mem_cons] at h ⊢; tauto
      · simp only [List.mem_cons] at h ⊢
        rcases h with h | h
        · tauto
        · rcases ih h with h | h <;> tauto

/-- A write keeps the canonical form. -/
theorem Memory.wf_store {m : List Host.Cell} (h : Memory.wf m) (i : Nat) (b : Byte) : Memory.wf (Memory.store m i b) := by
  induction m with
  | nil => simp [Memory.store, Memory.wf]
  | cons a m ih =>
    obtain ⟨k, v⟩ := a
    have hm := List.pairwise_cons.mp h
    simp only [Memory.store]
    split
    · rename_i hlt
      refine List.pairwise_cons.mpr ⟨?_, h⟩
      intro c hc
      rcases List.mem_cons.mp hc with rfl | hc
      · exact hlt
      · exact lt_trans hlt (hm.1 c hc)
    · split
      · subst_vars; exact List.pairwise_cons.mpr ⟨hm.1, hm.2⟩
      · refine List.pairwise_cons.mpr ⟨?_, ih hm.2⟩
        intro c hc
        rcases Memory.mem_store hc with rfl | hc
        · show k < i; omega
        · exact hm.1 c hc

/-- The empty memory is canonical. -/
theorem Memory.wf_nil : Memory.wf [] := List.Pairwise.nil

/-- A write within the buffer keeps every listed index within it. -/
theorem Memory.bound_store {m : List Host.Cell} {n : Nat} (h : ∀ c ∈ m, c.1 < n) {i : Nat} (hi : i < n) (b : Byte) :
    ∀ c ∈ Memory.store m i b, c.1 < n := by
  intro c hc
  rcases Memory.mem_store hc with rfl | hc
  · exact hi
  · exact h c hc

/-- `bufByte` reads nothing of the state but `BUF` and its capacity. -/
theorem bufByte_congr {s t : State} (hb : t.buf = s.buf) (hp : t.params = s.params) (i : Nat) : bufByte t i = bufByte s i := by
  simp [bufByte, hb, hp]

/-- After a byte is stored within the buffer, that byte reads as stored and every other byte as before. -/
theorem bufByte_store {s t : State} {i : Nat} {b : Byte} (hb : t.buf = Memory.store s.buf i b) (hp : t.params = s.params)
    (hi : i < s.params.bufBytes) (j : Nat) : bufByte t j = if j = i then b else bufByte s j := by
  simp only [bufByte, hb, hp, Memory.lookup_store]
  by_cases h : j = i
  · subst h; simp [hi]
  · simp [h]

end Sys2Proof.Machine
end

