-- ==== Sys2Proof/Laws/Frames.lean ====
section
/-! SUPPORT. What a running read keeps in a cycle, that no consumed byte stops it under the invariant, and runs of several
cycles: how they are put together and how an offered frame is consumed. -/

namespace Sys2Proof.Machine

/-! ### What the decoder's part of a cycle keeps -/

/-- SEEK keeps everything but the shift register and, on a match, the state, `idx` and `acc` (R460). -/
theorem seekByte_frame (d : Decoder) (b : Byte) :
    (seekByte d b).done = d.done ∧ (seekByte d b).result = d.result ∧ (seekByte d b).mode = d.mode ∧
    (seekByte d b).lS1 = d.lS1 ∧ (seekByte d b).lS2 = d.lS2 ∧ (seekByte d b).lDevid = d.lDevid ∧
    (seekByte d b).lTimeout = d.lTimeout ∧ (seekByte d b).lLen = d.lLen ∧
    (seekByte d b).respParam = d.respParam ∧ (seekByte d b).respCode = d.respCode ∧
    (seekByte d b).sc = d.sc ∧ (seekByte d b).count = d.count ∧
    (d.state = .seek → (seekByte d b).state = .seek ∨ (seekByte d b).state = .devid) := by
  rw [seekByte_eq]; split <;> simp +contextual

/-- A consumed byte keeps the latched values, clears the silence counter, and ends the read only at a second checksum byte. -/
theorem consume_frame {s : State} {b : Byte} {d : DecoderOut} (hb : s.dec.state ≠ .idle) (h : consumeByte s b = .ok d) :
    d.dec.mode = s.dec.mode ∧ d.dec.lS1 = s.dec.lS1 ∧ d.dec.lS2 = s.dec.lS2 ∧ d.dec.lDevid = s.dec.lDevid ∧
    d.dec.lTimeout = s.dec.lTimeout ∧ d.dec.lLen = s.dec.lLen ∧ d.dec.sc = 0 ∧ d.draws = s.draws ∧
    ((d.dec.state ≠ .idle ∧ d.dec.done = s.dec.done ∧ d.dec.result = s.dec.result) ∨
     (s.dec.state = .cksum ∧ s.dec.idx = 1 ∧ d.dec.state = .idle ∧ d.dec.done = true ∧ d.dec.result = .ok)) := by
  rcases consumeByte_cases hb h with ⟨h1, rfl⟩ | ⟨h1, h2, rfl⟩ | ⟨h1, h2, h3, rfl⟩ | ⟨h1, h2, h3, rfl⟩ | ⟨h1, h2, h3, rfl⟩ |
    ⟨h1, h2, h3, h4, rfl⟩ | ⟨h1, h2, h3, rfl⟩ | ⟨h1, h2, rfl⟩ | ⟨h1, h2, rfl⟩ | ⟨h1, h2, h3, h4, rfl⟩ | ⟨h1, h2, h3, rfl⟩
  · obtain ⟨a1, a2, a3, a4, a5, a6, a7, a8, a9, a10, a11, a12, a13⟩ := seekByte_frame { s.dec with sc := 0 } b
    simp only [onlyDec_dec, onlyDec_draws]
    refine ⟨a3, a4, a5, a6, a7, a8, a11, trivial, .inl ⟨?_, a1, a2⟩⟩
    rcases a13 h1 with h | h <;> rw [h] <;> simp
  all_goals simp [h1, h2, afterPayload]
  all_goals split <;> simp

/-- A silent cycle keeps the latched values and `BUF`, gives the sink nothing, and ends the read only by expiry (R456). -/
theorem silent_frame (s : State) (tick : Bool) :
    (silentCycle s tick).dec.mode = s.dec.mode ∧ (silentCycle s tick).dec.lS1 = s.dec.lS1 ∧
    (silentCycle s tick).dec.lS2 = s.dec.lS2 ∧ (silentCycle s tick).dec.lDevid = s.dec.lDevid ∧
    (silentCycle s tick).dec.lTimeout = s.dec.lTimeout ∧ (silentCycle s tick).dec.lLen = s.dec.lLen ∧
    (silentCycle s tick).buf = s.buf ∧ (silentCycle s tick).sink = none ∧
    (((silentCycle s tick).dec.state = s.dec.state ∧ (silentCycle s tick).dec.done = s.dec.done ∧
        (silentCycle s tick).dec.result = s.dec.result) ∨
     (s.dec.lTimeout ≤ s.dec.sc ∧ (silentCycle s tick).dec.state = .idle ∧ (silentCycle s tick).dec.done = true ∧
        (silentCycle s tick).dec.result = .timeout)) ∧
    (¬ (s.dec.mode = .resp ∧ s.dec.lTimeout ≤ s.dec.sc) →
      (silentCycle s tick).dec.respParam = s.dec.respParam ∧ (silentCycle s tick).dec.respCode = s.dec.respCode) := by
  rcases silentCycle_cases s tick with ⟨h, e⟩ | ⟨h, h2, e⟩ | ⟨h, h2, e⟩
  · rcases timeoutRead_cases s with ⟨h2, e2⟩ | ⟨h2, e2⟩ <;> rw [e, e2] <;> simp [h, h2]
  · rw [e]; simp
  · rw [e]; simp

/-- The host's access never writes `RESP_PARAM` or `RESP_CODE` (R211, R452). -/
theorem hostAccess_resp {s u : State} {b : BusIn} (h : hostAccess b s = .next u) :
    u.dec.respParam = s.dec.respParam ∧ u.dec.respCode = s.dec.respCode := by
  rcases hostAccess_cases h with ⟨i, -, hx⟩ | ⟨-, rfl⟩
  · rcases exec_cases i s with ⟨-, e⟩ | ⟨-, e⟩ | ⟨-, e⟩ | ⟨-, -, e⟩ | ⟨-, -, e⟩ | ⟨-, -, -, e⟩ | ⟨-, -, -, e⟩ | ⟨-, -, e⟩ <;>
      rw [e] at hx <;> cases hx <;> simp
  · simp

/-- Under the invariant a consumed byte never stops the machine (R135, R700). -/
theorem consumeByte_next {s : State} (hi : s.Inv) (hb : s.dec.state ≠ .idle) (b : Byte) : ∃ d, consumeByte s b = .ok d := by
  have hd := hi.dec
  have le1 : ∀ x : Word, x.toNat ≤ 1 → x = 0 ∨ x = 1 := by
    intro x hx
    rcases Nat.le_one_iff_eq_zero_or_eq_one.mp hx with h | h
    · left; exact BitVec.eq_of_toNat_eq h
    · right; exact BitVec.eq_of_toNat_eq h
  cases hs : s.dec.state
  · contradiction
  · exact ⟨_, consume_seek b hs⟩
  · rcases le1 _ (hd.devid_idx hs) with h | h
    · exact ⟨_, consume_devid_first b hs h⟩
    · by_cases hn : half b s.dec.tmp = s.dec.lDevid
      · exact ⟨_, consume_devid_match b hs h hn⟩
      · exact ⟨_, consume_devid_mismatch b hs h hn⟩
  · cases hm : s.dec.mode
    · exact absurd hm (hd.busy_mode hb)
    · have hlt := (hd.payload_idx hs).1
      rw [hd.resp_len hm (.inl hb)] at hlt
      have hlt6 : s.dec.idx.toNat < 6 := hlt
      by_cases h3 : s.dec.idx.toNat ≤ 3
      · exact ⟨_, consume_payload_param b hs hm h3⟩
      · exact ⟨_, consume_payload_code b hs hm h3 (by omega)⟩
    · have hlt := (hd.payload_idx hs).1
      have hle := hd.dbuf_len hm (.inl hb)
      exact ⟨_, consume_payload_dbuf b hs hm (by omega)⟩
    · exact ⟨_, consume_payload_stream b hs hm⟩
  · rcases le1 _ (hd.cksum_idx hs).1 with h | h
    · exact ⟨_, consume_cksum_first b hs h⟩
    · by_cases hn : half b s.dec.tmp = s.dec.acc ∨ s.dec.mode = .dstream
      · exact ⟨_, consume_cksum_accept b hs h hn⟩
      · exact ⟨_, consume_cksum_mismatch b hs h (fun e => hn (.inr e)) (fun e => hn (.inl e))⟩

/-! ### Runs -/

/-- No cycle. -/
@[simp] theorem steps_zero (s : State) : steps 0 s = .next s := rfl

/-- A run whose first cycle is known. -/
theorem steps_succ_of_step {s t : State} (n : Nat) (h : step s = .next t) : steps (n + 1) s = steps n t := by
  simp [steps, h]

/-- Two runs, one after the other. -/
theorem steps_add_of_steps {s t : State} (m n : Nat) (h : steps m s = .next t) : steps (m + n) s = steps n t := by
  induction m generalizing s with
  | zero => cases h; simp
  | succ m ih =>
    rw [Nat.add_right_comm]
    cases hs : step s with
    | next u => rw [steps_succ_of_step _ hs] at h ⊢; exact ih h
    | fault f => simp [steps, hs] at h
    | refused r => simp [steps, hs] at h

/-- A listed schedule gives the next cycle's inputs. -/
theorem currentInput_of_schedule {s : State} {c : CycleIn} {rest : List CycleIn} (h : s.env.schedule = c :: rest) :
    currentInput s = c := by simp [currentInput, h]

/-- Every cycle uses up the first listed input. -/
theorem step_schedule {s t : State} (h : step s = .next t) : t.env.schedule = s.env.schedule.tail := by
  rcases step_cases h with ⟨-, rfl⟩ | ⟨-, u, d, -, -, rfl⟩ <;> rfl

/-- Every cycle keeps the parameters (R3). -/
theorem step_params {s t : State} (h : step s = .next t) : t.params = s.params := by
  rcases step_cases h with ⟨-, rfl⟩ | ⟨-, u, d, hu, -, rfl⟩
  · rfl
  · exact (hostAccess_frame hu).2.2.2.2.1

/-- A running read consumes the first byte of a frame on offer. -/
theorem FrameOffered.consumes {s : State} {b : Byte} {f : List Byte} (h : FrameOffered s (b :: f)) (hb : s.dec.state ≠ .idle) :
    Consumes s b := by
  obtain ⟨⟨q, hq⟩, l, rest, hl, hlen, hall⟩ := h
  cases l with
  | nil => simp at hlen
  | cons c l =>
    have hc := hall c (by simp)
    have hin : currentInput s = c := currentInput_of_schedule (by simpa using hl)
    refine ⟨by rw [hin]; exact hc.1, hb, ?_⟩
    simp [rxOffered, rxHeld, hin, hc.2, hq]

/-- After that cycle the rest of the frame is on offer. -/
theorem FrameOffered.tail {s t : State} {b : Byte} {f : List Byte} (h : FrameOffered s (b :: f)) (hb : s.dec.state ≠ .idle)
    (hs : step s = .next t) : FrameOffered t f := by
  have hc := h.consumes hb
  obtain ⟨⟨q, hq⟩, l, rest, hl, hlen, hall⟩ := h
  refine ⟨?_, ?_⟩
  · rcases step_cases hs with ⟨hr, -⟩ | ⟨-, u, d, -, -, rfl⟩
    · exact absurd hr (by simp [hc.1])
    · refine ⟨q ++ (currentInput s).rxArrive, ?_⟩
      simp [envAfter, outputs, (Decoder.busy_iff _).mpr hb, hc.2.2, rxHeld, hq]
  · cases l with
    | nil => simp at hlen
    | cons c l =>
      refine ⟨l, rest, by simp [step_schedule hs, hl], by simpa using hlen, fun x hx => hall x (by simp [hx])⟩

end Sys2Proof.Machine
end

