-- ==== Sys2Proof/Laws/PerInstr.lean ====
section
/-! SUPPORT. Per-command families: one lemma per constructor of `Instr`. -/

namespace Sys2Proof.Laws.RoundTrip

/-- The command decodes from the word and offset R340 spells it with (R320, R620). -/
def Statement (i : Instr) : Prop := decode (Sys2Proof.encode i) = .ok i

theorem nop : Statement .nop := by unfold Statement; decide
theorem encode : Statement .encode := by unfold Statement; decide
theorem readResp : Statement .readResp := by unfold Statement; decide
theorem readDataBuf : Statement .readDataBuf := by unfold Statement; decide
theorem readDataStream : Statement .readDataStream := by unfold Statement; decide
theorem reserved5 : Statement .reserved5 := by unfold Statement; decide
theorem reserved6 : Statement .reserved6 := by unfold Statement; decide
theorem reserved7 : Statement .reserved7 := by unfold Statement; decide
theorem clrRej : Statement .clrRej := by unfold Statement; decide

end Sys2Proof.Laws.RoundTrip
end

