-- ==== Sys2Proof/Tests/Slice0.lean ====
section
/-! SUPPORT. The model's own tests: encodings and vectors of spec/ (95_test_vectors.md), and for every statement about a state
the named witness that meets its hypotheses. -/

namespace Sys2Proof.Tests

open Sys2Proof Sys2Proof.Machine

/-! ### Small states -/

/-- The example configuration K0 (95_test_vectors.md §1.1). -/
def k0 : Params :=
  { bufBytes := 64, cmdSyncRst := ⟨0x55, 0xAA⟩, respSyncRst := ⟨0xAA, 0x55⟩, devidRst := 1, timeoutRst := 10, tickPeriod := 1 }

/-- Right after reset, under K0. -/
def s0 : State := State.resetWith k0

/-- `s` with the inputs of the coming cycles listed. -/
def listed (s : State) (cs : List CycleIn) : State := { s with env := { s.env with schedule := cs } }

/-- `s` with bytes at the receive transport. -/
def holding (s : State) (bs : List Byte) : State := { s with env := { s.env with rxQueue := bs } }

/-- A cycle with an access. -/
def on (b : BusIn) : CycleIn := { CycleIn.quiet with bus := b }

/-- A cycle in which the receive transport offers its oldest byte. -/
def offering : CycleIn := { CycleIn.quiet with rxOffer := true }

/-- A cycle with a tick and no byte. -/
def ticking : CycleIn := { CycleIn.quiet with tick := true }

/-- A cycle in which the transmit transport takes a byte. -/
def taking : CycleIn := { CycleIn.quiet with txReady := true }

/-- A cycle with `rst` = 1. -/
def resetting : CycleIn := { CycleIn.quiet with rst := true }

/-- A read running under K0, at a given state, index and count. -/
def reading (m : DecMode) (st : DecState) (len idx count : Word) : State :=
  { s0 with dec := { Decoder.reset with
      state := st, mode := m, lS1 := 0xAA, lS2 := 0x55, lDevid := 1, lTimeout := 10, lLen := len, idx := idx, count := count } }

/-- `reading` with the first byte of a pair and a running checksum. -/
def readingWith (m : DecMode) (st : DecState) (len idx count : Word) (tmp : Byte) (acc : Half) : State :=
  let s := reading m st len idx count
  { s with dec := { s.dec with tmp := tmp, acc := acc } }

/-- A read in SEEK with `sc` ticks of silence counted. -/
def silentFor (m : DecMode) (sc : Word) : State :=
  let s := reading m .seek 6 0 0
  { s with dec := { s.dec with sc := sc } }

/-- Under K0 with the packet of V-E1 being sent, byte `i` next. -/
def sending (i : Fin 12) : State :=
  { s0 with enc :=
      { busy := true, done := false, idx := i
        frame := #v[0x55, 0xAA, 0x01, 0x00, 0x01, 0x00, 0x00, 0x00, 0x01, 0x00, 0x02, 0x01] } }

/-- `s` with `b` offered in its next cycle. -/
def offered (s : State) (b : Byte) : State := listed (holding s [b]) [offering]

/-- Whether `exec` and `step` answer a next state, and which. -/
def next? (o : Host.Outcome State Fault Refusal) : Option State :=
  match o with
  | .next t => some t
  | _ => none

/-- The state after one cycle (the state itself where none follows). -/
def after (s : State) : State := (next? (step s)).getD s

/-- The cycle does follow. -/
def runs (s : State) : Bool := (next? (step s)).isSome

theorem step_after {s : State} (h : runs s = true) : step s = .next (after s) := by
  unfold runs after at *
  cases hs : step s <;> simp_all [next?]

theorem step_some {s : State} (h : runs s = true) : ∃ t, step s = .next t := ⟨_, step_after h⟩

/-! ### Encodings: words written out from R320, R321, R620 and R340 -/

theorem test_decode_nop : decode (BusIn.write 0b0000000000000 0b00000000000000000000000000000000) = .ok .nop := by decide
theorem test_decode_nop_ignored_bits : decode (BusIn.write 0b0000000000011 0b11111111111111111111111111111000) = .ok .nop := by decide
theorem test_decode_encode : decode (BusIn.write 0b0000000000000 0b00000000000000000000000000000001) = .ok .encode := by decide
theorem test_decode_read_resp : decode (BusIn.write 0b0000000000000 0b00000000000000000000000000001010) = .ok .readResp := by decide
theorem test_decode_read_data_buf : decode (BusIn.write 0b0000000000001 0b00000000000000000000000000000011) = .ok .readDataBuf := by decide
theorem test_decode_read_data_stream :
    decode (BusIn.write 0b0000000000000 0b10000000000000000000000000000100) = .ok .readDataStream := by decide
theorem test_decode_reserved5 : decode (BusIn.write 0b0000000000000 0b00000000000000000000000000000101) = .ok .reserved5 := by decide
theorem test_decode_reserved6 : decode (BusIn.write 0b0000000000000 0b00000000000000000000000000000110) = .ok .reserved6 := by decide
theorem test_decode_reserved7 : decode (BusIn.write 0b0000000000010 0b00000000000000000000000100000111) = .ok .reserved7 := by decide
theorem test_decode_clr_rej : decode (BusIn.write 0b0000000000100 0b00000000000000000000000100000000) = .ok .clrRej := by decide
theorem test_decode_clr_rej_other_bits : decode (BusIn.write 0b0000000000111 0b11111111111111111111111111111111) = .ok .clrRej := by decide

/-- Accesses that are no command, each refused by its name (R210, R211, R620). -/
theorem test_decode_refusals :
    decode BusIn.idle = .error .noAccess ∧ decode (BusIn.read 0x000) = .error .readAccess ∧
    decode (BusIn.write 0x004 0xFFFFFEFF) = .error .statusWithoutClear ∧
    decode (BusIn.write 0x008 0x00000101) = .error .otherPlace ∧
    decode (BusIn.write 0x034 1) = .error .otherPlace ∧
    decode (BusIn.write 0x1000 1) = .error .otherPlace := by decide

/-- The nine words of spec/opcode_table.json. -/
theorem test_table_words :
    decodeTableWord 32 0x0 = some .nop ∧ decodeTableWord 32 0x1 = some .encode ∧ decodeTableWord 32 0x2 = some .readResp ∧
    decodeTableWord 32 0x3 = some .readDataBuf ∧ decodeTableWord 32 0x4 = some .readDataStream ∧
    decodeTableWord 32 0x5 = some .reserved5 ∧ decodeTableWord 32 0x6 = some .reserved6 ∧
    decodeTableWord 32 0x7 = some .reserved7 ∧ decodeTableWord 32 0x100 = some .clrRej := by decide

/-- Addresses: every word of the bus space is a register of R110, reserved, or a word of the `BUF` window (R201). -/
theorem test_places :
    place 0x030 = .reg .cfgTimeout ∧ place 0x033 = .reg .cfgTimeout ∧ place 0x034 = .reserved ∧ place 0xFFF = .reserved ∧
    place 0x1000 = .bufWord 0 ∧ place 0x1FFF = .bufWord 1023 := by decide

/-! ### What is checked on the parameters -/

/-- Ill-formed parameters, and the legal ones next to them: `P_BUF_BYTES` is 24 to 4096 (R3). -/
theorem test_wf_params :
    ¬ Params.wf { k0 with bufBytes := 23 } ∧ Params.wf { k0 with bufBytes := 24 } ∧
    Params.wf { k0 with bufBytes := 4096 } ∧ ¬ Params.wf { k0 with bufBytes := 4097 } := by decide

/-- Memories out of canonical form are refused. -/
theorem test_wf_memory : ¬ Memory.wf [(1, 0), (1, 1)] ∧ ¬ Memory.wf [(2, 0), (1, 1)] ∧ Memory.wf [(1, 0), (2, 0)] := by decide

/-! ### Checksums (V-K1 to V-K3, V-K5, V-K6) -/

theorem test_checksums :
    sum16 [0x55, 0xAA, 0x01, 0x00, 0x01, 0x00, 0x00, 0x00, 0x01, 0x00] = 0x0102 ∧
    sum16 (List.replicate 10 0xFF) = 0x09F6 ∧ sum16 (List.replicate 10 0x00) = 0 ∧
    sum16 [0xAA, 0x55, 0x01, 0x00, 0xDE, 0xAD, 0xBE, 0xEF] = 0x0438 ∧
    sum16 [0x55, 0xAA, 0x01, 0x00, 0xEF, 0xCD, 0xAB, 0x89, 0x34, 0x12] = 0x0436 := by decide

/-! ### The commands, one cycle each -/

/-- One cycle in which the host writes a table word. -/
def ran (s : State) (w : Nat) : Option State := next? (step (s.withFetchWord 32 w))

/-- V-C1, third access: a `NOP` with the ignored bits set changes nothing. -/
theorem test_nop : (ran s0 0xFFFFFFF8).map statusValue = some 0 := by decide

/-- V-E4c: the packet, and `STATUS` the cycle after. -/
theorem test_encode_packet :
    (ran { s0 with regs := { s0.regs with encOpcode := 0x1234, encParam := 0x89ABCDEF } } 1).map (fun t => t.enc.frame.toList) =
      some [0x55, 0xAA, 0x01, 0x00, 0xEF, 0xCD, 0xAB, 0x89, 0x34, 0x12, 0x36, 0x04] := by decide

/-- V-E6: an `ENCODE` while the packet is being sent is refused, and the packet goes on. -/
theorem test_encode_busy :
    (ran (sending 3) 1).map (fun t => (statusValue t, t.enc.idx)) = some (0x00000101, 3) := by decide

/-- V-C4: `READ_RESP` starts in SEEK. -/
theorem test_read_resp : (ran s0 0x0000000A).map statusValue = some 0x00011004 := by decide

/-- V-C2: a read command while the decoder is busy is refused. -/
theorem test_read_busy : (ran (reading .resp .seek 6 0 0) 3).map statusValue = some 0x00011104 := by decide

/-- V-B3: a length above `P_BUF_BYTES` is refused with BADLEN. -/
theorem test_read_data_buf_badlen :
    (ran { s0 with regs := { s0.regs with decLen := 65 } } 3).map statusValue = some 0x00020038 := by decide

/-- V-B3b: a length equal to `P_BUF_BYTES` is accepted. -/
theorem test_read_data_buf_full :
    (ran { s0 with regs := { s0.regs with decLen := 64 } } 3).map statusValue = some 0x00021004 := by decide

/-- P3: `READ_DATA_STREAM` starts in SEEK, whatever the length (R551). -/
theorem test_read_data_stream :
    (ran { s0 with regs := { s0.regs with decLen := 0xFFFFFFFF } } 4).map (fun t => (statusValue t, t.dec.lLen)) =
      some (0x00031004, 0xFFFFFFFF) := by decide

/-- V-C1, first access, and the other two reserved codes (R605). -/
theorem test_reserved5 : (ran s0 5).map statusValue = some 0x00000100 := by decide
theorem test_reserved6 : (ran s0 6).map statusValue = some 0x00000100 := by decide
theorem test_reserved7 : (ran s0 7).map statusValue = some 0x00000100 := by decide

/-- V-C1, second access: the `STATUS` write clears `REJ`. -/
theorem test_clr_rej : (ran { s0 with rej := true } 0x100).map statusValue = some 0 := by decide

/-- V-C3: `ENCODE` is accepted while a read runs. -/
theorem test_encode_while_reading : (ran (reading .resp .seek 6 0 0) 1).map statusValue = some 0x00011005 := by decide

/-- The first instruction after reset runs, whatever the OPEN parameters are. -/
theorem test_reset_runs_first_word : (next? (step (State.reset.withFetchWord 32 5))).map (·.rej) = some true := by rfl

/-! ### Registers and the `BUF` window -/

/-- V-C6: reserved bits of a configuration register read 0, and a host write of `RESP_PARAM` is ignored. -/
theorem test_register_writes :
    memRead (after (listed s0 [on (BusIn.write 0x028 0xFFFF55AA)])) 0x028 = 0x000055AA ∧
    memRead (after (listed s0 [on (BusIn.write 0x014 5)])) 0x014 = 0 ∧
    memRead (after (listed s0 [on (BusIn.write 0x014 5)])) 0x000 = 0 := by decide

/-- V-B1: the `BUF` window is little-endian. V-B6: bytes at or above `P_BUF_BYTES`, and reserved words, read 0. -/
theorem test_buf_window :
    memRead { s0 with buf := [(0, 0xDE), (1, 0xAD), (2, 0xBE), (3, 0xEF)] } 0x1000 = 0xEFBEADDE ∧
    memRead { s0 with params := { k0 with bufBytes := 24 } } 0x1018 = 0 ∧
    memRead s0 0x1FFC = 0 ∧ memRead s0 0x040 = 0 := by decide

/-! ### The encoder and the decoder, one cycle each -/

/-- V-E5: with `tx_ready` = 0 a byte is held; V-E1: the last byte taken ends the packet. -/
theorem test_encoder_cycle :
    (after (listed (sending 0) [CycleIn.quiet])).enc.idx = 0 ∧
    (after (listed (sending 0) [taking])).env.txTaken = [0x55] ∧
    statusValue (after (listed (sending 11) [taking])) = 0x00000002 := by decide

/-- V-D3: the cleared shift register does not count as a received 00, and the pair matches on its second byte. -/
theorem test_seek :
    (after (offered (reading .resp .seek 6 0 0) 0x00)).dec.srFill = 1 ∧
    (let s := reading .resp .seek 6 0 0
     let t := after (offered { s with dec := { s.dec with sr := 0xAAAA, srFill := 2 } } 0x55)
     t.dec.state = .devid ∧ t.dec.sr = 0xAA55 ∧ t.dec.acc = 0x00FF) := by decide

/-- V-D4a: device ID 0x0002 resynchronises; V-R1: 0x0001 goes on to PAYLOAD. -/
theorem test_devid :
    (let t := after (offered (readingWith .resp .devid 6 1 0 0x02 0x00FF) 0x00)
     t.dec.state = .seek ∧ t.dec.srFill = 0 ∧ t.dec.sr = 0) ∧
    (let t := after (offered (readingWith .resp .devid 6 1 0 0x01 0x00FF) 0x00)
     t.dec.state = .payload ∧ t.dec.acc = 0x0100 ∧ t.dec.idx = 0) := by decide

/-- V-R1: the code's low byte, then its high byte, which completes the payload. -/
theorem test_payload_resp :
    (let t := after (offered (readingWith .resp .payload 6 4 4 0 0x0100) 0x30)
     t.dec.respCode = 0x0030 ∧ t.dec.acc = 0x0130 ∧ t.dec.idx = 5 ∧ t.dec.count = 5) ∧
    (after (offered (readingWith .resp .payload 6 5 5 0 0x0130) 0x00)).dec.state = .cksum := by decide

/-- V-B7 and V-S5: the same byte goes to `BUF` or to the sink. -/
theorem test_payload_data :
    Memory.lookup (after (offered (reading .dbuf .payload 3 1 1) 0x22)).buf 1 = some 0x22 ∧
    (after (offered (reading .dstream .payload 3 1 1) 0x22)).sink = { valid := true, data := 0x22 } ∧
    (after (offered (reading .dstream .payload 3 1 1) 0x22)).buf = [] := by decide

/-- V-R1, V-D5, V-S1: the right checksum ends the read, a wrong one resynchronises, and in streaming mode any ends it. -/
theorem test_cksum :
    statusValue (after (offered (readingWith .resp .cksum 6 1 6 0x30 0x0130) 0x01)) = 0x00010018 ∧
    statusValue (after (offered (readingWith .resp .cksum 6 1 6 0xDB 0x01DB) 0x00)) = 0x00011004 ∧
    statusValue (after (offered (readingWith .dstream .cksum 3 1 3 0x00 0x0166) 0x00)) = 0x00030018 := by decide

/-- V-T2: with `CFG_TIMEOUT` = 0 the first silent cycle ends the read, with no tick; V-T5: a byte at the deadline wins. -/
theorem test_timeout :
    (let s := reading .dbuf .seek 3 0 0
     statusValue (after (listed { s with dec := { s.dec with lTimeout := 0 } } [CycleIn.quiet])) = 0x00020028) ∧
    (let s := reading .resp .seek 6 0 0
     let t := after (offered { s with dec := { s.dec with sc := 10 } } 0xAA)
     t.dec.sc = 0 ∧ statusValue t = 0x00011004) := by decide

/-- V-X2: a reset cycle abandons the packet and drives every output 0. -/
theorem test_reset_cycle :
    (let t := after (listed (sending 4) [{ taking with rst := true }])
     statusValue t = 0 ∧ t.env.out.txValid = false ∧ t.env.txTaken = []) := by decide

/-! ### Invariants of the witness states -/

theorem s0_inv : s0.Inv :=
  ⟨by decide, ⟨by decide, by decide, by decide⟩, by constructor <;> decide, by decide, by decide, by decide⟩

/-- The state after reset with another decoder meets the invariant if the decoder does. -/
theorem inv_of_dec {d : Decoder} (h : d.Inv 64) : ({ s0 with dec := d } : State).Inv :=
  ⟨s0_inv.params, s0_inv.enc, h, s0_inv.buf_wf, s0_inv.buf_bound, s0_inv.sink_empty⟩

theorem sending_inv : (sending 0).Inv :=
  ⟨by decide, ⟨by decide, by decide, by decide⟩, by constructor <;> decide, by decide, by decide, by decide⟩
theorem seek_resp_inv : (reading .resp .seek 6 0 0).Inv := inv_of_dec (by constructor <;> decide)
theorem seek_dbuf_inv : (reading .dbuf .seek 3 0 0).Inv := inv_of_dec (by constructor <;> decide)
theorem seek_dbuf_empty_inv : (reading .dbuf .seek 0 0 0).Inv := inv_of_dec (by constructor <;> decide)
theorem seek_dstream_inv : (reading .dstream .seek 3 0 0).Inv := inv_of_dec (by constructor <;> decide)
theorem payload_dbuf_inv : (readingWith .dbuf .payload 3 0 0 0 0x0100).Inv := inv_of_dec (by constructor <;> decide)
theorem cksum_resp_inv : (readingWith .resp .cksum 6 1 6 0x30 0x0130).Inv := inv_of_dec (by constructor <;> decide)

/-- The invariant says nothing of the agents. -/
theorem inv_env {s : State} (h : s.Inv) (e : Env) : ({ s with env := e } : State).Inv :=
  ⟨h.params, h.enc, h.dec, h.buf_wf, h.buf_bound, h.sink_empty⟩

theorem consumes_offered {s : State} {b : Byte} (h : s.dec.state ≠ .idle) : Consumes (offered s b) b := ⟨rfl, h, rfl⟩

/-- `s` with the bytes `f` offered in its next cycles. -/
def framed (s : State) (f : List Byte) : State := listed (holding s f) (List.replicate f.length offering)

theorem framed_offered (s : State) (f : List Byte) : FrameOffered (framed s f) f :=
  ⟨⟨[], by simp [framed, listed, holding]⟩, List.replicate f.length offering, [], by simp [framed, listed],
    by simp, fun c hc => by rw [List.eq_of_mem_replicate hc]; exact ⟨rfl, rfl⟩⟩

/-- The V-R1 frame, the V-B7 frame, and a data frame of length 0 (V-B2). -/
def frameR1 : List Byte := [0xAA, 0x55, 0x01, 0x00, 0x00, 0x00, 0x00, 0x00, 0x30, 0x00, 0x30, 0x01]
def frameB7 : List Byte := [0xAA, 0x55, 0x01, 0x00, 0x11, 0x22, 0x33, 0x66, 0x01]
def frameB2 : List Byte := [0xAA, 0x55, 0x01, 0x00, 0x00, 0x01]
/-- V-S1: the checksum field is wrong. -/
def frameS1 : List Byte := [0xAA, 0x55, 0x01, 0x00, 0x11, 0x22, 0x33, 0x00, 0x00]

theorem frameR1_valid : frameValid (reading .resp .seek 6 0 0).dec frameR1 := ⟨by decide, by decide, by decide, .inr (by decide)⟩
theorem frameB7_valid : frameValid (reading .dbuf .seek 3 0 0).dec frameB7 := ⟨by decide, by decide, by decide, .inr (by decide)⟩
theorem frameB2_valid : frameValid (reading .dbuf .seek 0 0 0).dec frameB2 := ⟨by decide, by decide, by decide, .inr (by decide)⟩
theorem frameS1_valid : frameValid (reading .dstream .seek 3 0 0).dec frameS1 := ⟨by decide, by decide, by decide, .inl (by decide)⟩
/-- V-S1's frame is not valid outside streaming mode. -/
theorem frameS1_not_valid : ¬ frameValid (reading .dbuf .seek 3 0 0).dec frameS1 := by
  rintro ⟨-, -, -, h | h⟩ <;> revert h <;> decide

/-! ### Witnesses: for each statement with hypotheses, a state and operands that meet them together -/

theorem witness_ResetCycleForcesResetValues : (currentInput (listed (sending 4) [resetting])).rst = true := by decide

theorem witness_CommandChecksumNeverWraps :
    (List.replicate 10 (0xFF : Byte)).length = 10 ∧ (sum16 (List.replicate 10 0xFF)).toNat = 0x09F6 := by decide

theorem witness_EncodeLatchesThePacket : s0.enc.busy = false := by decide

theorem witness_BusyUnitRejectsCommand :
    (sending 0).enc.busy = true ∧ (sending 11).enc.busy = true ∧ (reading .resp .cksum 6 1 6).dec.state ≠ .idle := by decide

theorem witness_ReadRespStartsARead : s0.dec.state = .idle := by decide

theorem witness_ReadDataBufStartsOrRefuses :
    s0.dec.state = .idle ∧
    (let s := { s0 with regs := { s0.regs with decLen := 65 } }; s.dec.state = .idle ∧ s.params.bufBytes < s.regs.decLen.toNat) ∧
    (let s := { s0 with regs := { s0.regs with decLen := 64 } }; s.dec.state = .idle ∧ s.regs.decLen.toNat ≤ s.params.bufBytes) := by
  decide

theorem witness_ReadDataStreamStartsARead : s0.dec.state = .idle := by decide

/-- Of `exec`: an `ENCODE`, a read, and a command that leaves both units and `REJ` alone. -/
theorem witness_CommandsChangeOnlyTheirUnit :
    (∃ t, exec .encode s0 = .next t) ∧ (∃ t, exec .readResp s0 = .next t) ∧
    (∃ t, exec .reserved5 { s0 with rej := true } = .next t) :=
  ⟨⟨_, rfl⟩, ⟨_, rfl⟩, ⟨_, rfl⟩⟩

/-- Both units busy, and both idle. -/
theorem witness_StepRunsTheDecodedCommand :
    (let s := listed (reading .resp .seek 6 0 0) [on (BusIn.write 0x000 1)]
     ∃ u d, (currentInput s).rst = false ∧ decode (currentInput s).bus = .ok .encode ∧ exec .encode s = .next u ∧
       decoderCycle s (rxOffered s (currentInput s)) (currentInput s).tick = .ok d) ∧
    (let s := listed s0 [on (BusIn.write 0x000 2)]
     ∃ u d, (currentInput s).rst = false ∧ decode (currentInput s).bus = .ok .readResp ∧ exec .readResp s = .next u ∧
       decoderCycle s (rxOffered s (currentInput s)) (currentInput s).tick = .ok d) :=
  ⟨⟨_, _, by decide, by decide, rfl, rfl⟩, ⟨_, _, by decide, by decide, rfl, rfl⟩⟩

theorem witness_CommandCycleAgainstIdleCycle :
    (∃ t, step (presentAccess s0 BusIn.idle) = .next t) ∧
    (0xFFFFFEFF : Word).getLsbD 8 = false ∧
    ((∃ t, step (presentAccess (sending 0) BusIn.idle) = .next t) ∧ (sending 0).enc.busy = true) ∧
    ((∃ t, step (presentAccess (reading .resp .seek 6 0 0) BusIn.idle) = .next t) ∧
      (reading .resp .seek 6 0 0).dec.state ≠ .idle) :=
  ⟨step_some (by decide), by decide, ⟨step_some (by decide), by decide⟩, ⟨step_some (by decide), by decide⟩⟩

/-- `ENCODE` while a read runs, and each read while a packet is sent. -/
theorem witness_IdleUnitAcceptsCommandWhileOtherRuns :
    (let s := reading .resp .seek 6 0 0
     (∃ t, step (presentAccess s BusIn.idle) = .next t) ∧ s.enc.busy = false ∧ ∃ u, exec .encode s = .next u) ∧
    (let s := sending 5
     (∃ t, step (presentAccess s BusIn.idle) = .next t) ∧ s.dec.state = .idle ∧
       (∃ u, exec .readResp s = .next u) ∧ (∃ u, exec .readDataBuf s = .next u) ∧ ∃ u, exec .readDataStream s = .next u) :=
  ⟨⟨step_some (by decide), by decide, ⟨_, rfl⟩⟩, ⟨step_some (by decide), by decide, ⟨_, rfl⟩, ⟨_, rfl⟩, ⟨_, rfl⟩⟩⟩

/-- The addresses at the edges: `STATUS` with bit 8 clear, the first and the last register stored, the next word, the window. -/
theorem witness_RegisterWriteStoresItsFields :
    (∃ t, step (presentAccess s0 BusIn.idle) = .next t) ∧
    (∀ n ∈ [0x004, 0x007, 0x008, 0x014, 0x033, 0x034, 0x1000, 0x1FFF],
      (BitVec.ofNat 13 n).toNat / 4 ≠ 0 ∧ ((BitVec.ofNat 13 n).toNat / 4 = 1 → (0xFFFFFEFF : Word).getLsbD 8 = false)) :=
  ⟨step_some (by decide), by decide⟩

theorem witness_RegisterReadReturnsTheRegister :
    ∀ n ∈ [0x000, 0x004, 0x033, 0x034, 0xFFF], (BitVec.ofNat 13 n).toNat < 0x1000 := by decide

/-- The first and last address of the window, and an index at the capacity. -/
theorem witness_BufWindowPacksLittleEndian :
    (∀ n ∈ [0x1000, 0x103F, 0x1040, 0x1FFF], 0x1000 ≤ (BitVec.ofNat 13 n).toNat) ∧ s0.params.bufBytes ≤ 64 := by decide

theorem witness_ReadHasNoSideEffect : ∃ t, step (presentAccess s0 BusIn.idle) = .next t := step_some (by decide)

theorem witness_OnlyTheHostWritesItsRegisters :
    (let s := listed (reading .resp .seek 6 0 0) [CycleIn.quiet]
     (∃ t, step s = .next t) ∧ (currentInput s).rst = false ∧ (currentInput s).bus.en = false) ∧
    (let s := listed (reading .resp .seek 6 0 0) [on (BusIn.read 0x004)]
     (∃ t, step s = .next t) ∧ (currentInput s).rst = false ∧ (currentInput s).bus.we = false) :=
  ⟨⟨step_some (by decide), by decide, by decide⟩, ⟨step_some (by decide), by decide, by decide⟩⟩

/-- Each disjunct of the conclusion, reached. -/
theorem witness_RejRisesOnlyOnARefusedCommand :
    ∀ s ∈ [listed s0 [on (encode .reserved5)], listed s0 [on (encode .reserved6)], listed s0 [on (encode .reserved7)],
        listed (sending 11) [on (encode .encode)], listed (reading .resp .seek 6 0 0) [on (encode .readDataBuf)]],
      runs s = true ∧ (currentInput s).rst = false ∧ s.rej = false ∧ (after s).rej = true := by decide

theorem witness_DoneFlagsClearedOnlyByNextCommand :
    (let s := listed { s0 with enc := { s0.enc with done := true } } [on (encode .encode)]
     runs s = true ∧ (currentInput s).rst = false ∧ s.enc.done = true ∧ (after s).enc.done = false) ∧
    (let s := listed { s0 with dec := { s0.dec with done := true, result := .ok } } [on (encode .readResp)]
     runs s = true ∧ (currentInput s).rst = false ∧ s.dec.done = true ∧ (after s).dec.done = false ∧
       s.dec.result ≠ .none ∧ (after s).dec.result = .none) := by decide

/-- A reset cycle, and one without. -/
theorem witness_OutputsAreFunctionsOfTheState :
    (runs (listed (sending 0) [resetting]) = true ∧ (currentInput (listed (sending 0) [resetting])).rst = true) ∧
    (runs (listed (sending 0) [taking]) = true ∧ (currentInput (listed (sending 0) [taking])).rst = false) := by decide

/-- A byte moves, and does not, on each port. -/
theorem witness_BytesMoveOnlyWhenBothReady :
    (let s := listed (sending 0) [taking]; runs s = true ∧ (after s).env.out.txValid = true ∧ (currentInput s).txReady = true) ∧
    (let s := listed s0 [taking]; runs s = true ∧ (after s).env.out.txValid = false) ∧
    (let s := listed (sending 0) [offering]; runs s = true ∧ (currentInput s).txReady = false) ∧
    (let s := offered (reading .resp .seek 6 0 0) 0xAA
     runs s = true ∧ s.env.rxQueue ++ (currentInput s).rxArrive = 0xAA :: [] ∧ (currentInput s).rxOffer = true ∧
       (after s).env.out.rxReady = true) ∧
    (let s := offered s0 0xAA; runs s = true ∧ (after s).env.out.rxReady = false) ∧
    (let s := listed s0 [{ on (BusIn.read 0x004) with rst := true }]; runs s = true ∧ (currentInput s).rst = true) := by decide

theorem witness_EncoderSendsOneByteWhenTaken :
    (∀ i ∈ [(11 : Fin 12), 10, 0], runs (listed (sending i) [taking]) = true ∧
      (currentInput (listed (sending i) [taking])).rst = false ∧ (sending i).enc.busy = true ∧
      (currentInput (listed (sending i) [taking])).txReady = true) ∧
    (let s := listed (sending 0) [CycleIn.quiet]; runs s = true ∧ (currentInput s).txReady = false) ∧
    (let s := listed s0 [on (encode .readResp)]
     runs s = true ∧ s.enc.busy = false ∧ decode (currentInput s).bus ≠ .ok .encode) := by decide

/-- Eleven bytes taken and one cycle held back, and the twelfth next. -/
theorem witness_PacketIsSentInOrder :
    let l := CycleIn.quiet :: List.replicate 11 taking
    let s := listed (sending 0) (l ++ [taking])
    s.Inv ∧ s.enc.busy = true ∧ s.enc.idx.val = 0 ∧ s.env.schedule = l ++ [taking] ∧ (∀ c ∈ l, c.rst = false) ∧
      l.countP (fun c => c.txReady) ≤ 11 ∧ taking.rst = false ∧ taking.txReady = true ∧ l.countP (fun c => c.txReady) = 11 :=
  ⟨inv_env sending_inv _, by decide, by decide, rfl, by decide, by decide, by decide, by decide, by decide⟩

theorem witness_IdleDecoderConsumesNothing :
    let s := offered s0 0xAA
    (∃ t, step s = .next t) ∧ (currentInput s).rst = false ∧ s.dec.state = .idle ∧
      decode (currentInput s).bus ≠ .ok .readResp ∧ decode (currentInput s).bus ≠ .ok .readDataBuf ∧
      decode (currentInput s).bus ≠ .ok .readDataStream :=
  ⟨step_some (by decide), by decide, by decide, by decide, by decide, by decide⟩

/-- A byte that completes the pair, and the same bytes with only one received since the last clear. -/
theorem witness_SeekShiftsAndMatchesTheSyncPair :
    let s := reading .resp .seek 6 0 0
    let matching := offered { s with dec := { s.dec with sr := 0x00AA, srFill := 1 } } 0x55
    let cleared := offered { s with dec := { s.dec with sr := 0x00AA, srFill := 0 } } 0x55
    (Consumes matching 0x55 ∧ matching.dec.state = .seek ∧ min (matching.dec.srFill.toNat + 1) 2 = 2 ∧
      (matching.dec.sr.extractLsb' 0 8 : Byte) = matching.dec.lS1 ∧ (0x55 : Byte) = matching.dec.lS2) ∧
    (Consumes cleared 0x55 ∧ cleared.dec.state = .seek ∧ min (cleared.dec.srFill.toNat + 1) 2 ≠ 2) :=
  ⟨⟨consumes_offered (by decide), by decide, by decide, by decide, by decide⟩,
    ⟨consumes_offered (by decide), by decide, by decide⟩⟩

theorem witness_DevidKeepsItsFirstByte :
    let s := offered (reading .resp .devid 6 0 0) 0x01
    Consumes s 0x01 ∧ s.dec.state = .devid ∧ s.dec.idx = 0 := ⟨consumes_offered (by decide), by decide, by decide⟩

theorem witness_DevidMismatchResynchronises :
    let s := offered (readingWith .resp .devid 6 1 0 0x02 0x00FF) 0x00
    Consumes s 0x00 ∧ s.dec.state = .devid ∧ s.dec.idx = 1 ∧ ((0x00 : Byte) ++ s.dec.tmp : Half) ≠ s.dec.lDevid :=
  ⟨consumes_offered (by decide), by decide, by decide, by decide⟩

/-- A payload to come, and a length of 0. -/
theorem witness_DevidMatchStartsThePayload :
    (let s := offered (readingWith .resp .devid 6 1 0 0x01 0x00FF) 0x00
     Consumes s 0x00 ∧ s.dec.state = .devid ∧ s.dec.idx = 1 ∧ ((0x00 : Byte) ++ s.dec.tmp : Half) = s.dec.lDevid) ∧
    (let s := offered (readingWith .dbuf .devid 0 1 0 0x01 0x00FF) 0x00
     Consumes s 0x00 ∧ s.dec.state = .devid ∧ s.dec.idx = 1 ∧ ((0x00 : Byte) ++ s.dec.tmp : Half) = s.dec.lDevid ∧ s.dec.lLen.toNat = 0) :=
  ⟨⟨consumes_offered (by decide), by decide, by decide, by decide⟩,
    ⟨consumes_offered (by decide), by decide, by decide, by decide, by decide⟩⟩

/-- The last byte of `RESP_PARAM`, and the last of `RESP_CODE`. -/
theorem witness_RespPayloadByteIsDelivered :
    (let s := offered (reading .resp .payload 6 3 3) 0x30
     Consumes s 0x30 ∧ s.dec.state = .payload ∧ s.dec.mode = .resp ∧ s.dec.idx.toNat ≤ 5) ∧
    (let s := offered (reading .resp .payload 6 5 5) 0x30
     Consumes s 0x30 ∧ s.dec.state = .payload ∧ s.dec.mode = .resp ∧ s.dec.idx.toNat ≤ 5) :=
  ⟨⟨consumes_offered (by decide), by decide, by decide, by decide⟩, ⟨consumes_offered (by decide), by decide, by decide, by decide⟩⟩

/-- The first byte, and the last byte of a full buffer. -/
theorem witness_DbufPayloadByteIsStored :
    (let s := offered (reading .dbuf .payload 64 0 0) 0xDE
     Consumes s 0xDE ∧ s.dec.state = .payload ∧ s.dec.mode = .dbuf ∧ s.dec.idx.toNat < s.params.bufBytes) ∧
    (let s := offered (reading .dbuf .payload 64 63 63) 0xDE
     Consumes s 0xDE ∧ s.dec.state = .payload ∧ s.dec.mode = .dbuf ∧ s.dec.idx.toNat < s.params.bufBytes) :=
  ⟨⟨consumes_offered (by decide), by decide, by decide, by decide⟩, ⟨consumes_offered (by decide), by decide, by decide, by decide⟩⟩

theorem witness_StreamPayloadByteGoesToTheSink :
    let s := offered (reading .dstream .payload 3 2 2) 0x33
    Consumes s 0x33 ∧ s.dec.state = .payload ∧ s.dec.mode = .dstream := ⟨consumes_offered (by decide), by decide, by decide⟩

theorem witness_CksumKeepsItsFirstByte :
    let s := offered (readingWith .resp .cksum 6 0 6 0 0x0130) 0x30
    Consumes s 0x30 ∧ s.dec.state = .cksum ∧ s.dec.idx = 0 := ⟨consumes_offered (by decide), by decide, by decide⟩

theorem witness_CksumMismatchResynchronises :
    let s := offered (readingWith .resp .cksum 6 1 6 0xDB 0x01DB) 0x00
    Consumes s 0x00 ∧ s.dec.state = .cksum ∧ s.dec.idx = 1 ∧ s.dec.mode ≠ .dstream ∧ ((0x00 : Byte) ++ s.dec.tmp : Half) ≠ s.dec.acc :=
  ⟨consumes_offered (by decide), by decide, by decide, by decide, by decide⟩

/-- The right checksum, and a wrong one in streaming mode. -/
theorem witness_CksumAcceptFinishesOk :
    (let s := offered (readingWith .resp .cksum 6 1 6 0x30 0x0130) 0x01
     Consumes s 0x01 ∧ s.dec.state = .cksum ∧ s.dec.idx = 1 ∧ ((0x01 : Byte) ++ s.dec.tmp : Half) = s.dec.acc) ∧
    (let s := offered (readingWith .dstream .cksum 3 1 3 0x00 0x0166) 0x00
     Consumes s 0x00 ∧ s.dec.state = .cksum ∧ s.dec.idx = 1 ∧ s.dec.mode = .dstream) :=
  ⟨⟨consumes_offered (by decide), by decide, by decide, by decide⟩, ⟨consumes_offered (by decide), by decide, by decide, by decide⟩⟩

/-- One tick before the deadline, with a tick and without; at the deadline, in a `READ_RESP` and in another mode. -/
theorem witness_SilentCycleCountsOrTimesOut :
    (let s := listed (silentFor .resp 9) [ticking]; Silent s ∧ s.dec.sc.toNat < s.dec.lTimeout.toNat) ∧
    (let s := listed (silentFor .resp 9) [CycleIn.quiet]; Silent s ∧ s.dec.sc.toNat < s.dec.lTimeout.toNat) ∧
    (let s := listed (silentFor .resp 10) [ticking]; Silent s ∧ s.dec.lTimeout.toNat ≤ s.dec.sc.toNat) ∧
    (let s := listed (silentFor .dbuf 10) [ticking]
     Silent s ∧ s.dec.lTimeout.toNat ≤ s.dec.sc.toNat ∧ s.dec.mode ≠ .resp) :=
  ⟨⟨⟨rfl, by decide, rfl⟩, by decide⟩, ⟨⟨rfl, by decide, rfl⟩, by decide⟩, ⟨⟨rfl, by decide, rfl⟩, by decide⟩,
    ⟨⟨rfl, by decide, rfl⟩, by decide, by decide⟩⟩

theorem witness_ConsumedByteWinsOverTimeout :
    let s := offered (reading .resp .seek 6 0 0) 0xAA
    s.Inv ∧ Consumes s 0xAA := ⟨inv_env seek_resp_inv _, consumes_offered (by decide)⟩

/-- A payload byte for the sink; and each way of having none. -/
theorem witness_SinkRegisterHoldsOneByteForOneCycle :
    (let s := offered (reading .dstream .payload 3 0 0) 0x11
     runs s = true ∧ (currentInput s).rst = false ∧ rxOffered s (currentInput s) = some 0x11 ∧ s.dec.state = .payload ∧
       s.dec.mode = .dstream) ∧
    (let s := listed (reading .dstream .payload 3 0 0) [CycleIn.quiet]
     runs s = true ∧ (currentInput s).rst = false ∧ rxOffered s (currentInput s) = none) ∧
    (let s := offered (reading .dstream .cksum 3 0 3) 0x11; runs s = true ∧ s.dec.state ≠ .payload) ∧
    (let s := offered (reading .dbuf .payload 3 0 0) 0x11; runs s = true ∧ s.dec.mode ≠ .dstream) := by decide

/-- A byte stored at index 0 while index 1 is asked about. -/
theorem witness_OnlyDbufPayloadWritesBuf :
    let s := offered (reading .dbuf .payload 3 0 0) 0x11
    (∃ t, step s = .next t) ∧
      ¬ ((∃ b, Consumes s b) ∧ s.dec.state = .payload ∧ s.dec.mode = .dbuf ∧ s.dec.idx.toNat = 1) :=
  ⟨step_some (by decide), fun h => absurd h.2.2.2 (by decide)⟩

theorem witness_OnlyReadRespWritesRespRegisters :
    let s := offered (reading .resp .cksum 6 0 6) 0x11
    (∃ t, step s = .next t) ∧ (currentInput s).rst = false ∧
      ¬ ((∃ b, Consumes s b) ∧ s.dec.state = .payload ∧ s.dec.mode = .resp) ∧
      ¬ (Silent s ∧ s.dec.mode = .resp ∧ s.dec.lTimeout.toNat ≤ s.dec.sc.toNat) :=
  ⟨step_some (by decide), by decide, fun h => absurd h.2.1 (by decide), fun h => absurd h.2.2 (by decide)⟩

theorem witness_RunningOperationKeepsItsLatchedValues :
    (let s := listed (sending 5) [on (BusIn.write 0x00C 0xFFFFFFFF)]
     (∃ t, step s = .next t) ∧ (currentInput s).rst = false ∧ s.enc.busy = true) ∧
    (let s := listed (reading .dbuf .seek 3 0 0) [on (BusIn.write 0x010 0xFFFFFFFF)]
     (∃ t, step s = .next t) ∧ (currentInput s).rst = false ∧ s.dec.state ≠ .idle) :=
  ⟨⟨step_some (by decide), by decide, by decide⟩, ⟨step_some (by decide), by decide, by decide⟩⟩

/-- Each way a read ends. -/
theorem witness_ReadEndsOnlyByFinish :
    (let s := offered (readingWith .resp .cksum 6 1 6 0x30 0x0130) 0x01
     runs s = true ∧ (currentInput s).rst = false ∧ s.dec.state ≠ .idle ∧ (after s).dec.state = .idle) ∧
    (let r := reading .dbuf .payload 3 1 1
     let s := listed { r with dec := { r.dec with sc := 10 } } [CycleIn.quiet]
     runs s = true ∧ (currentInput s).rst = false ∧ s.dec.state ≠ .idle ∧ (after s).dec.state = .idle) := by decide

theorem witness_EveryCycleKeepsTheInvariant : s0.Inv ∧ (sending 0).Inv ∧ (readingWith .resp .cksum 6 1 6 0x30 0x0130).Inv :=
  ⟨s0_inv, sending_inv, cksum_resp_inv⟩

theorem witness_RunningChecksumIsTheRecomputedOne :
    let s := offered (readingWith .dbuf .payload 3 0 0 0 0x0100) 0x11
    s.Inv ∧ s.AccExact ∧ ∃ t, step s = .next t :=
  ⟨inv_env payload_dbuf_inv _, ⟨by decide, fun _ _ => by decide, by decide⟩, step_some (by decide)⟩

/-- Two states that differ in the decoder, its buffer, its stream and the tick. -/
theorem witness_EncoderIndependentOfDecoder :
    let s₁ := listed (sending 0) [taking]
    let s₂ := listed { sending 0 with dec := (reading .dbuf .seek 3 0 0).dec, buf := [(0, 1)] } [{ taking with tick := true }]
    (∃ t₁, step s₁ = .next t₁) ∧ (∃ t₂, step s₂ = .next t₂) ∧ s₁ ≠ s₂ ∧ s₁.enc = s₂.enc ∧ s₁.regs = s₂.regs ∧
      s₁.params = s₂.params ∧ (currentInput s₁).rst = (currentInput s₂).rst ∧ (currentInput s₁).bus = (currentInput s₂).bus ∧
      (currentInput s₁).txReady = (currentInput s₂).txReady :=
  ⟨step_some (by decide), step_some (by decide), by decide, by decide, by decide, by decide, by decide, by decide, by decide⟩

/-- Two states that differ in the encoder and in `tx_ready`. -/
theorem witness_DecoderIndependentOfEncoder :
    let s₁ := offered (reading .dbuf .payload 3 0 0) 0x11
    let s₂ := listed { s₁ with enc := (sending 0).enc } [{ offering with txReady := true }]
    (∃ t₁, step s₁ = .next t₁) ∧ (∃ t₂, step s₂ = .next t₂) ∧ s₁ ≠ s₂ ∧ s₁.dec = s₂.dec ∧ s₁.buf = s₂.buf ∧
      s₁.draws = s₂.draws ∧ s₁.regs = s₂.regs ∧ s₁.params = s₂.params ∧ s₁.env.rxQueue = s₂.env.rxQueue ∧
      currentInput s₁ = { currentInput s₂ with txReady := (currentInput s₁).txReady } :=
  ⟨step_some (by decide), step_some (by decide), by decide, by decide, by decide, by decide, by decide, by decide, by decide,
    by decide⟩

/-- A timeout of 10 ticks, and one of 0. -/
theorem witness_SilenceTimesOutExactly :
    (let l := List.replicate 10 ticking
     let s := listed (reading .resp .seek 6 0 0) (l ++ [CycleIn.quiet])
     s.Inv ∧ s.dec.state ≠ .idle ∧ s.dec.sc = 0 ∧ s.env.schedule = l ++ CycleIn.quiet :: [] ∧
       l.length = s.dec.lTimeout.toNat ∧ (∀ x ∈ l, x.rst = false ∧ x.rxOffer = false ∧ x.tick = true) ∧
       CycleIn.quiet.rst = false ∧ CycleIn.quiet.rxOffer = false) ∧
    (let r := reading .dbuf .seek 3 0 0
     let s := listed { r with dec := { r.dec with lTimeout := 0 } } [CycleIn.quiet]
     s.Inv ∧ s.dec.state ≠ .idle ∧ s.dec.sc = 0 ∧ s.env.schedule = [] ++ CycleIn.quiet :: [] ∧
       ([] : List CycleIn).length = s.dec.lTimeout.toNat) :=
  ⟨⟨inv_env seek_resp_inv _, by decide, by decide, rfl, by decide, by decide, by decide, by decide⟩,
    ⟨inv_env (inv_of_dec (by constructor <;> decide)) _, by decide, by decide, rfl, by decide⟩⟩

/-- A valid frame, and one that is not. -/
theorem witness_FrameAcceptedExactlyWhenValid :
    (let s := framed (reading .dbuf .seek 3 0 0) frameB7
     s.Inv ∧ s.dec.state = .seek ∧ s.dec.srFill = 0 ∧ frameB7.length = s.dec.lLen.toNat + 6 ∧ FrameOffered s frameB7 ∧
       frameValid s.dec frameB7) ∧
    (let s := framed (reading .dbuf .seek 3 0 0) frameS1
     s.Inv ∧ s.dec.state = .seek ∧ s.dec.srFill = 0 ∧ frameS1.length = s.dec.lLen.toNat + 6 ∧ FrameOffered s frameS1 ∧
       ¬ frameValid s.dec frameS1) :=
  ⟨⟨inv_env seek_dbuf_inv _, by decide, by decide, by decide, framed_offered _ _, frameB7_valid⟩,
    ⟨inv_env seek_dbuf_inv _, by decide, by decide, by decide, framed_offered _ _, frameS1_not_valid⟩⟩

theorem witness_ValidResponseIsReturned :
    let s := framed (reading .resp .seek 6 0 0) frameR1
    s.Inv ∧ s.dec.state = .seek ∧ s.dec.mode = .resp ∧ s.dec.srFill = 0 ∧ frameValid s.dec frameR1 ∧ FrameOffered s frameR1 :=
  ⟨inv_env seek_resp_inv _, by decide, by decide, by decide, frameR1_valid, framed_offered _ _⟩

/-- The V-B7 frame, and a frame without payload. -/
theorem witness_ValidDataFrameFillsBuf :
    (let s := framed (reading .dbuf .seek 3 0 0) frameB7
     s.Inv ∧ s.dec.state = .seek ∧ s.dec.mode = .dbuf ∧ s.dec.srFill = 0 ∧ frameValid s.dec frameB7 ∧ FrameOffered s frameB7) ∧
    (let s := framed (reading .dbuf .seek 0 0 0) frameB2
     s.Inv ∧ s.dec.state = .seek ∧ s.dec.mode = .dbuf ∧ s.dec.srFill = 0 ∧ frameValid s.dec frameB2 ∧ FrameOffered s frameB2) :=
  ⟨⟨inv_env seek_dbuf_inv _, by decide, by decide, by decide, frameB7_valid, framed_offered _ _⟩,
    ⟨inv_env seek_dbuf_empty_inv _, by decide, by decide, by decide, frameB2_valid, framed_offered _ _⟩⟩

theorem witness_StreamFrameReachesTheSink :
    let s := framed (reading .dstream .seek 3 0 0) frameS1
    s.Inv ∧ s.dec.state = .seek ∧ s.dec.mode = .dstream ∧ s.sink.valid = false ∧ s.dec.srFill = 0 ∧
      frameValid s.dec frameS1 ∧ FrameOffered s frameS1 :=
  ⟨inv_env seek_dstream_inv _, by decide, by decide, by decide, by decide, frameS1_valid, framed_offered _ _⟩

/-- The first byte changed, and the last one before the checksum. -/
theorem witness_SingleCorruptedByteIsRejected :
    (let s := framed (reading .dbuf .seek 3 0 0) (frameB7.set 0 0x00)
     s.Inv ∧ s.dec.state = .seek ∧ s.dec.srFill = 0 ∧ s.dec.mode = .dbuf ∧ frameValid s.dec frameB7 ∧
       0 < s.dec.lLen.toNat + 4 ∧ (0x00 : Byte) ≠ frameB7.getD 0 0 ∧ FrameOffered s (frameB7.set 0 0x00)) ∧
    (let s := framed (reading .resp .seek 6 0 0) (frameR1.set 9 0x01)
     s.Inv ∧ s.dec.state = .seek ∧ s.dec.srFill = 0 ∧ s.dec.mode = .resp ∧ frameValid s.dec frameR1 ∧
       9 < s.dec.lLen.toNat + 4 ∧ (0x01 : Byte) ≠ frameR1.getD 9 0 ∧ FrameOffered s (frameR1.set 9 0x01)) :=
  ⟨⟨inv_env seek_dbuf_inv _, by decide, by decide, by decide, frameB7_valid, by decide, by decide, framed_offered _ _⟩,
    ⟨inv_env seek_resp_inv _, by decide, by decide, by decide, frameR1_valid, by decide, by decide, framed_offered _ _⟩⟩

end Sys2Proof.Tests
end

section
/-! The two units are independent (R1, R2): what a command and each part of a cycle read and write, and the obligations that
follow. -/

namespace Sys2Proof.Machine

/-! ### What a command makes of each unit -/

/-- Decoding undoes encoding, whatever the ignored bits (R200, R321, R620). -/
theorem decode_encodeWith (i : Instr) (alow : BitVec 2) (junk : Word) : decode (encodeWith i alow junk) = .ok i := by
  cases i
  case clrRej =>
    have hbit : (junk ||| 0x100#32).getLsbD 8 = true := by simp
    simp only [encodeWith, cmdCode, decode_write_status (place_status alow), hbit, if_true]
  all_goals
    simp only [encodeWith, cmdCode, decode_write_ctrl (place_ctrl alow), cmdField_append]
    rfl

/-- The encoder a command leaves: `ENCODE` writes an idle one, nothing else writes it (R400, R610). -/
theorem exec_enc {i : Instr} {s u : State} (h : exec i s = .next u) :
    u.enc = if i = .encode ∧ s.enc.busy = false then
        { busy := true, done := false, frame := commandPacket s.regs, idx := 0 }
      else s.enc := by
  rcases exec_cases i s with ⟨rfl, e⟩ | ⟨hi, e⟩ | ⟨rfl, e⟩ | ⟨rfl, hb, e⟩ | ⟨rfl, -, e⟩ | ⟨rfl, -, -, e⟩ | ⟨rfl, -, -, e⟩ |
    ⟨rfl, -, e⟩ <;> rw [e] at h <;> cases h
  · simp
  · have hno : ¬ (i = .encode ∧ s.enc.busy = false) := by rintro ⟨rfl, hb⟩; simp [hb] at hi
    rw [if_neg hno, reject_enc]
  · simp
  · simp [hb]
  · simp
  · simp
  · simp
  · simp

/-- The decoder a command leaves: a read command writes an idle one (R500, R550, R551, R610). -/
def decoderAfterCommand (i : Instr) (s : State) : Decoder :=
  if s.dec.busy then s.dec
  else match i with
    | .readResp => (startRead .resp s.regs.cfgRespSync 6 s).dec
    | .readDataBuf =>
      if s.params.bufBytes < s.regs.decLen.toNat then { s.dec with mode := .dbuf, done := true, result := .badlen }
      else (startRead .dbuf s.regs.cfgDataSync s.regs.decLen s).dec
    | .readDataStream => (startRead .dstream s.regs.cfgDataSync s.regs.decLen s).dec
    | _ => s.dec

theorem exec_dec {i : Instr} {s u : State} (h : exec i s = .next u) : u.dec = decoderAfterCommand i s := by
  rcases exec_cases i s with ⟨rfl, e⟩ | ⟨hi, e⟩ | ⟨rfl, e⟩ | ⟨rfl, -, e⟩ | ⟨rfl, hb, e⟩ | ⟨rfl, hb, hl, e⟩ | ⟨rfl, hb, hl, e⟩ |
    ⟨rfl, hb, e⟩ <;> rw [e] at h <;> cases h
  · simp [decoderAfterCommand]
  · rcases hi with rfl | rfl | rfl | ⟨rfl, -⟩ | ⟨-, hb⟩ <;> simp [decoderAfterCommand, *]
  · simp [decoderAfterCommand]
  · simp [decoderAfterCommand]
  · simp [decoderAfterCommand, hb]
  · simp [decoderAfterCommand, hb, hl]
  · simp [decoderAfterCommand, hb, Nat.not_lt.mpr hl]
  · simp [decoderAfterCommand, hb]

theorem decoderAfterCommand_congr {s₁ s₂ : State} (i : Instr) (hdec : s₁.dec = s₂.dec) (hregs : s₁.regs = s₂.regs)
    (hparams : s₁.params = s₂.params) : decoderAfterCommand i s₁ = decoderAfterCommand i s₂ := by
  simp only [decoderAfterCommand, startRead, hdec, hregs, hparams]

/-- `ENCODE` on an idle encoder is accepted: it writes the encoder and nothing else (R400). -/
theorem exec_encode_idle_frame {s u : State} (hb : s.enc.busy = false) (h : exec .encode s = .next u) :
    u.dec = s.dec ∧ u.regs = s.regs ∧ u.rej = s.rej := by
  simp only [exec, execEncode, hb] at h
  cases h
  exact ⟨rfl, rfl, rfl⟩

/-- A read command on an idle decoder is accepted or refused with BADLEN: it writes the decoder and nothing else (R500, R550,
R551). -/
theorem exec_read_idle_frame {i : Instr} {s u : State} (hi : i = .readResp ∨ i = .readDataBuf ∨ i = .readDataStream)
    (hb : s.dec.busy = false) (h : exec i s = .next u) : u.enc = s.enc ∧ u.regs = s.regs ∧ u.rej = s.rej := by
  rcases hi with rfl | rfl | rfl
  · simp only [exec, execReadResp, hb] at h
    cases h
    simp
  · by_cases hl : s.params.bufBytes < s.regs.decLen.toNat <;>
      simp only [exec, execReadDataBuf, hb, hl] at h <;> cases h <;> simp
  · simp only [exec, execReadDataStream, hb] at h
    cases h
    simp

/-- No command looks at the agents: with an access presented it does to the state what it does without. -/
theorem exec_presentAccess {i : Instr} {s u : State} (h : exec i s = .next u) (b : BusIn) :
    exec i (presentAccess s b) = .next (presentAccess u b) := by
  cases i
  case encode =>
    cases hb : s.enc.busy <;> simp only [exec, execEncode, presentAccess_enc, hb] at h ⊢ <;> cases h <;> rfl
  case readResp =>
    cases hb : s.dec.busy <;> simp only [exec, execReadResp, presentAccess_dec, hb] at h ⊢ <;> cases h <;> rfl
  case readDataBuf =>
    by_cases hl : s.params.bufBytes < s.regs.decLen.toNat <;> cases hb : s.dec.busy <;>
      simp only [exec, execReadDataBuf, presentAccess_dec, presentAccess_regs, presentAccess_params, hb, hl] at h ⊢ <;>
      cases h <;> rfl
  case readDataStream =>
    cases hb : s.dec.busy <;> simp only [exec, execReadDataStream, presentAccess_dec, hb] at h ⊢ <;> cases h <;> rfl
  all_goals cases h; rfl

/-! ### What the host's access makes of each unit -/

theorem hostAccess_of_error {b : BusIn} {e : NoCommand} (h : decode b = .error e) (s : State) :
    hostAccess b s = .next { s with regs := storeAccess s.regs b } := by
  simp [hostAccess, h]

/-- The encoder the host's access leaves depends on the encoder and the host's registers only. -/
theorem hostAccess_enc_congr {b : BusIn} {s₁ s₂ u₁ u₂ : State} (h₁ : hostAccess b s₁ = .next u₁)
    (h₂ : hostAccess b s₂ = .next u₂) (henc : s₁.enc = s₂.enc) (hregs : s₁.regs = s₂.regs) : u₁.enc = u₂.enc := by
  rcases hostAccess_cases h₁ with ⟨i, hi, hx⟩ | ⟨⟨e, he⟩, rfl⟩
  · rw [hostAccess_of_decode hi] at h₂
    rw [exec_enc hx, exec_enc h₂, henc, hregs]
  · rw [hostAccess_of_error he] at h₂
    cases h₂
    exact henc

/-- The decoder the host's access leaves depends on the decoder, the host's registers and the parameters only. -/
theorem hostAccess_dec_congr {b : BusIn} {s₁ s₂ u₁ u₂ : State} (h₁ : hostAccess b s₁ = .next u₁)
    (h₂ : hostAccess b s₂ = .next u₂) (hdec : s₁.dec = s₂.dec) (hregs : s₁.regs = s₂.regs)
    (hparams : s₁.params = s₂.params) : u₁.dec = u₂.dec := by
  rcases hostAccess_cases h₁ with ⟨i, hi, hx⟩ | ⟨⟨e, he⟩, rfl⟩
  · rw [hostAccess_of_decode hi] at h₂
    rw [exec_dec hx, exec_dec h₂, decoderAfterCommand_congr i hdec hregs hparams]
  · rw [hostAccess_of_error he] at h₂
    cases h₂
    exact hdec

/-- The host's registers after the access depend on nothing but them (R211). -/
theorem hostAccess_regs {b : BusIn} {s u : State} (h : hostAccess b s = .next u) : u.regs = storeAccess s.regs b := by
  obtain ⟨-, -, -, -, -, -, -, hregs⟩ := hostAccess_frame h
  exact hregs

/-! ### What the decoder's part of a cycle reads -/

section
variable {s₁ s₂ : State} (hdec : s₁.dec = s₂.dec) (hbuf : s₁.buf = s₂.buf) (hdraws : s₁.draws = s₂.draws)

theorem onlyDec_congr (hbuf : s₁.buf = s₂.buf) (hdraws : s₁.draws = s₂.draws) : onlyDec s₁ = onlyDec s₂ := by
  funext d
  simp only [onlyDec, hbuf, hdraws]

include hdec hbuf hdraws

theorem consumeByte_congr (hparams : s₁.params = s₂.params) (b : Byte) : consumeByte s₁ b = consumeByte s₂ b := by
  have honly := onlyDec_congr hbuf hdraws
  simp only [consumeByte, payloadByte, hdec, hbuf, hparams, honly]

theorem silentCycle_congr (tick : Bool) : silentCycle s₁ tick = silentCycle s₂ tick := by
  have honly := onlyDec_congr hbuf hdraws
  simp only [silentCycle, timeoutRead, hdec, hdraws, honly]

/-- The decoder's part of a cycle depends on the decoder, `BUF`, the draws and the parameters only. -/
theorem decoderCycle_congr (hparams : s₁.params = s₂.params) (rx : Option Byte) (tick : Bool) :
    decoderCycle s₁ rx tick = decoderCycle s₂ rx tick := by
  simp only [decoderCycle, consumeByte_congr hdec hbuf hdraws hparams, silentCycle_congr hdec hbuf hdraws,
    onlyDec_congr hbuf hdraws, hdec]

end

/-! ### A cycle without reset, taken apart -/

theorem step_parts_of_not_rst {s t : State} (h : step s = .next t) (hr : (currentInput s).rst = false) :
    ∃ u d, hostAccess (currentInput s).bus s = .next u ∧
      decoderCycle s (rxOffered s (currentInput s)) (currentInput s).tick = .ok d ∧ t = assemble s u d (currentInput s) := by
  rcases step_cases h with ⟨hr', -⟩ | ⟨-, hparts⟩
  · rw [hr] at hr'; cases hr'
  · exact hparts

theorem step_eq_resetCycle {s t : State} (h : step s = .next t) (hr : (currentInput s).rst = true) :
    t = resetCycle s (currentInput s) := by
  rw [step_of_rst hr] at h
  cases h
  rfl

/-- A unit idle at the start of a cycle without an access is the one at its end. -/
theorem step_idle_units {s t : State} (h : step (presentAccess s BusIn.idle) = .next t) :
    (if s.enc.busy then t.enc else s.enc) = t.enc ∧ (if s.dec.busy then t.dec else s.dec) = t.dec := by
  obtain ⟨-, -, -, henc, hdec⟩ := step_idle_frame h
  constructor
  · cases hb : s.enc.busy
    · exact (henc hb).symm
    · rfl
  · cases hb : s.dec.busy
    · exact (hdec hb).symm
    · rfl

end Sys2Proof.Machine

namespace Sys2Proof.Proofs

open Sys2Proof Sys2Proof.Machine

/-- Settles O20: around the accepted command, the cycle is the one without an access. -/
theorem idleUnitAcceptsCommandWhileOtherRuns : Obligations.IdleUnitAcceptsCommandWhileOtherRuns := by
  unfold Obligations.IdleUnitAcceptsCommandWhileOtherRuns
  intro s t u alow junk h
  obtain ⟨hregs, hrej, -⟩ := step_idle_frame h
  obtain ⟨henc, hdec⟩ := step_idle_units h
  constructor
  · intro hb hx
    obtain ⟨udec, uregs, urej⟩ := exec_encode_idle_frame hb hx
    rw [step_command (decode_encodeWith _ _ _) h (exec_presentAccess hx), udec, uregs, urej, hdec, ← hregs, ← hrej]
    simp [hb]
  · intro hidle i hi hx
    have hb : s.dec.busy = false := (Decoder.busy_eq_false_iff _).mpr hidle
    obtain ⟨uenc, uregs, urej⟩ := exec_read_idle_frame hi hb hx
    rw [step_command (decode_encodeWith _ _ _) h (exec_presentAccess hx), uenc, uregs, urej, henc, ← hregs, ← hrej]
    simp [hb]

/-- Settles O53: a reset cycle sets the encoder and the registers whatever they were; any other cycle gives the encoder its own
step or the access's effect, and neither reads the decoder. -/
theorem encoderIndependentOfDecoder : Obligations.EncoderIndependentOfDecoder := by
  unfold Obligations.EncoderIndependentOfDecoder
  intro s₁ s₂ t₁ t₂ h₁ h₂ henc hregs hparams hrst hbus htx
  cases hr : (currentInput s₁).rst
  case true =>
    rw [step_eq_resetCycle h₁ hr, step_eq_resetCycle h₂ (hrst ▸ hr)]
    simp [hparams, envAfterReset]
  case false =>
    obtain ⟨u₁, d₁, hu₁, -, rfl⟩ := step_parts_of_not_rst h₁ hr
    obtain ⟨u₂, d₂, hu₂, -, rfl⟩ := step_parts_of_not_rst h₂ (hrst ▸ hr)
    rw [hbus] at hu₁
    have huenc : u₁.enc = u₂.enc := hostAccess_enc_congr hu₁ hu₂ henc hregs
    have huregs : u₁.regs = u₂.regs := by rw [hostAccess_regs hu₁, hostAccess_regs hu₂, hregs]
    simp [huenc, huregs, henc, htx, outputs]

/-- Settles O54: a reset cycle sets the decoder whatever it was; any other cycle gives the decoder its own step or the access's
effect, and neither reads the encoder. -/
theorem decoderIndependentOfEncoder : Obligations.DecoderIndependentOfEncoder := by
  unfold Obligations.DecoderIndependentOfEncoder
  intro s₁ s₂ t₁ t₂ h₁ h₂ hdec hbuf hdraws hregs hparams hqueue hin
  have hrst : (currentInput s₁).rst = (currentInput s₂).rst := by rw [hin]
  have hbus : (currentInput s₁).bus = (currentInput s₂).bus := by rw [hin]
  have htick : (currentInput s₁).tick = (currentInput s₂).tick := by rw [hin]
  have harrive : (currentInput s₁).rxArrive = (currentInput s₂).rxArrive := by rw [hin]
  have hoffer : (currentInput s₁).rxOffer = (currentInput s₂).rxOffer := by rw [hin]
  have hheld : rxHeld s₁ (currentInput s₁) = rxHeld s₂ (currentInput s₂) := by simp only [rxHeld, hqueue, harrive]
  have hrx : rxOffered s₁ (currentInput s₁) = rxOffered s₂ (currentInput s₂) := by simp only [rxOffered, hoffer, hheld]
  cases hr : (currentInput s₁).rst
  case true =>
    rw [step_eq_resetCycle h₁ hr, step_eq_resetCycle h₂ (hrst ▸ hr)]
    simp [hbuf, hdraws, hparams, hheld, envAfterReset]
  case false =>
    obtain ⟨u₁, d₁, hu₁, hd₁, rfl⟩ := step_parts_of_not_rst h₁ hr
    obtain ⟨u₂, d₂, hu₂, hd₂, rfl⟩ := step_parts_of_not_rst h₂ (hrst ▸ hr)
    rw [hbus] at hu₁
    have hudec : u₁.dec = u₂.dec := hostAccess_dec_congr hu₁ hu₂ hdec hregs hparams
    have huregs : u₁.regs = u₂.regs := by rw [hostAccess_regs hu₁, hostAccess_regs hu₂, hregs]
    have hd : d₁ = d₂ := by
      rw [hrx, htick, decoderCycle_congr hdec hbuf hdraws hparams, hd₂] at hd₁
      cases hd₁
      rfl
    simp [hd, hudec, huregs, hdec, envAfter, outputs, hrx, hheld]

end Sys2Proof.Proofs
end

section
/-! The state's registers, outputs and buffer (R101 to R136): the fields of the `STATUS` word, what a cycle shows and moves on the
ports, which part of a cycle may write each register, and the obligations that follow. -/

namespace Sys2Proof.Machine

/-! ### The `STATUS` word as a number (R113) -/

/-- Two fields side by side, as a number: the high one counts in units above the low one. -/
theorem toNat_append_eq_add {m n : Nat} (x : BitVec m) (y : BitVec n) : (x ++ y).toNat = 2 ^ n * x.toNat + y.toNat := by
  rw [BitVec.toNat_append, ← Nat.shiftLeft_add_eq_or_of_lt y.isLt, Nat.shiftLeft_eq, Nat.mul_comm]

/-- The `STATUS` word is the sum of its fields, each at its bit; a reserved bit adds nothing. -/
theorem statusValue_toNat (s : State) :
    (statusValue s).toNat =
      65536 * s.dec.mode.code.toNat + 4096 * s.dec.state.code.toNat + 256 * s.rej.toNat + 16 * s.dec.result.code.toNat +
        8 * s.dec.done.toNat + 4 * s.dec.busy.toNat + 2 * s.enc.done.toNat + s.enc.busy.toNat := by
  rw [statusValue, BitVec.toNat_setWidth_of_le (by omega)]
  simp only [toNat_append_eq_add, BitVec.toNat_ofBool, BitVec.toNat_ofNat]
  omega

/-- The three numbered fields of the `STATUS` word are the codes of R330 to R332. -/
theorem statusValue_codes (s : State) :
    (statusValue s).toNat / 16 % 8 = s.dec.result.code.toNat ∧ (statusValue s).toNat / 4096 % 8 = s.dec.state.code.toNat ∧
    (statusValue s).toNat / 65536 = s.dec.mode.code.toNat := by
  have hresult := s.dec.result.code.isLt
  have hstate := s.dec.state.code.isLt
  have hrej := s.rej.toNat_le
  have hdone := s.dec.done.toNat_le
  have hbusy := s.dec.busy.toNat_le
  have hencDone := s.enc.done.toNat_le
  have hencBusy := s.enc.busy.toNat_le
  rw [statusValue_toNat]
  omega

/-- The five one-bit fields of the `STATUS` word (R113). -/
theorem statusValue_flags (s : State) :
    (statusValue s).getLsbD 0 = s.enc.busy ∧ (statusValue s).getLsbD 1 = s.enc.done ∧ (statusValue s).getLsbD 2 = s.dec.busy ∧
    (statusValue s).getLsbD 3 = s.dec.done ∧ (statusValue s).getLsbD 8 = s.rej := by
  simp only [statusValue, BitVec.getLsbD_setWidth, BitVec.getLsbD_append]
  simp

/-- The reserved bits of the `STATUS` word below its highest field read 0 (R111, R113). -/
theorem statusValue_reserved (s : State) : ∀ i ∈ [7, 9, 10, 11, 15], (statusValue s).getLsbD i = false := by
  simp only [statusValue, BitVec.getLsbD_setWidth, BitVec.getLsbD_append]
  simp

/-! ### The host's part of a cycle without a write -/

/-- Without a write there is no command and nothing to store (R210, R211). -/
theorem hostAccess_of_no_write {b : BusIn} (hb : b.en = false ∨ b.we = false) (s : State) : hostAccess b s = .next s := by
  rcases hb with hb | hb
  · simp [hostAccess, decode, storeAccess, hb]
  · cases he : b.en <;> simp [hostAccess, decode, storeAccess, hb, he]

/-! ### What moves on the ports (R101) -/

theorem envAfter_rxReady (s : State) (inp : CycleIn) : (envAfter s inp).out.rxReady = s.dec.busy := rfl

/-- What the transmit transport has taken after a cycle without reset: one byte more exactly if it was valid and taken. -/
theorem envAfter_txTaken (s : State) (inp : CycleIn) :
    (envAfter s inp).txTaken =
      if (envAfter s inp).out.txValid = true ∧ inp.txReady = true then s.env.txTaken ++ [(envAfter s inp).out.txData]
      else s.env.txTaken := by
  simp only [envAfter, Bool.and_eq_true]

/-- The receive transport after a cycle without reset: the oldest byte goes exactly if it is offered and the decoder is busy. -/
theorem envAfter_rxQueue (s : State) (inp : CycleIn) :
    (envAfter s inp).rxQueue =
      if s.dec.busy = true ∧ inp.rxOffer = true then (rxHeld s inp).tail else rxHeld s inp := by
  cases hheld : rxHeld s inp with
  | nil => simp [envAfter, hheld]
  | cons b q =>
    have hoffered : (rxOffered s inp).isSome = inp.rxOffer := by cases ho : inp.rxOffer <;> simp [rxOffered, ho, hheld]
    simp only [envAfter, outputs, hoffered, hheld, Bool.and_eq_true]

/-! ### What the decoder's part of a cycle may write -/

/-- The decoder's part of a cycle leaves `BUF` alone or stores the consumed payload byte of a `READ_DATA_BUF` at `idx` (R132,
R560). -/
theorem decoderCycle_buf {s : State} {rx : Option Byte} {tick : Bool} {d : DecoderOut} (h : decoderCycle s rx tick = .ok d) :
    d.buf = s.buf ∨
    (s.dec.state = .payload ∧ s.dec.mode = .dbuf ∧ s.dec.idx.toNat < s.params.bufBytes ∧
      ∃ b, rx = some b ∧ d.buf = Memory.store s.buf s.dec.idx.toNat b) := by
  rcases decoderCycle_cases h with ⟨-, rfl⟩ | ⟨b, hb, hrx, hc⟩ | ⟨-, -, rfl⟩
  · exact .inl rfl
  · rcases consumeByte_cases hb hc with ⟨-, rfl⟩ | ⟨-, -, rfl⟩ | ⟨-, -, -, rfl⟩ | ⟨-, -, -, rfl⟩ | ⟨-, -, -, rfl⟩ |
      ⟨-, -, -, -, rfl⟩ | ⟨hpay, hmode, hidx, rfl⟩ | ⟨-, -, rfl⟩ | ⟨-, -, rfl⟩ | ⟨-, -, -, -, rfl⟩ | ⟨-, -, -, rfl⟩
    pick_goal 7
    · exact .inr ⟨hpay, hmode, hidx, b, hrx, rfl⟩
    all_goals exact .inl rfl
  · obtain ⟨-, -, -, -, -, -, hbuf, -⟩ := silent_frame s tick
    exact .inl hbuf

/-- A consumed byte leaves `RESP_PARAM` and `RESP_CODE` alone unless it is a payload byte of a `READ_RESP` (R117, R118, R510). -/
theorem consumeByte_resp {s : State} {b : Byte} {d : DecoderOut} (hb : s.dec.state ≠ .idle) (h : consumeByte s b = .ok d)
    (hno : ¬ (s.dec.state = .payload ∧ s.dec.mode = .resp)) :
    d.dec.respParam = s.dec.respParam ∧ d.dec.respCode = s.dec.respCode := by
  rcases consumeByte_cases hb h with ⟨-, rfl⟩ | ⟨-, -, rfl⟩ | ⟨-, -, -, rfl⟩ | ⟨-, -, -, rfl⟩ | ⟨hpay, hmode, -, rfl⟩ |
    ⟨hpay, hmode, -, -, rfl⟩ | ⟨-, -, -, rfl⟩ | ⟨-, -, rfl⟩ | ⟨-, -, rfl⟩ | ⟨-, -, -, -, rfl⟩ | ⟨-, -, -, rfl⟩
  · obtain ⟨-, -, -, -, -, -, -, -, hparam, hcode, -⟩ := seekByte_frame { s.dec with sc := 0 } b
    exact ⟨hparam, hcode⟩
  pick_goal 4
  · exact absurd ⟨hpay, hmode⟩ hno
  pick_goal 4
  · exact absurd ⟨hpay, hmode⟩ hno
  all_goals exact ⟨rfl, rfl⟩

end Sys2Proof.Machine

namespace Sys2Proof.Proofs

open Sys2Proof Sys2Proof.Machine

/-- Settles O25: each field of the concatenation is read back at its place. -/
theorem statusWordHoldsItsFields : Obligations.StatusWordHoldsItsFields := by
  unfold Obligations.StatusWordHoldsItsFields
  intro s
  obtain ⟨hencBusy, hencDone, hdecBusy, hdecDone, hrej⟩ := statusValue_flags s
  obtain ⟨hresult, hstate, hmode⟩ := statusValue_codes s
  refine ⟨hencBusy, hencDone, ?_, hdecDone, ?_, hrej, ?_, ?_, statusValue_reserved s⟩
  · rw [hdecBusy, Decoder.busy_iff]
  · rw [hresult]; cases s.dec.result <;> rfl
  · rw [hstate]; cases s.dec.state <;> rfl
  · rw [hmode]; cases s.dec.mode <;> rfl

/-- Settles O26: without a write the host's part of the cycle is empty, and no other part writes a host register or `REJ`. -/
theorem onlyTheHostWritesItsRegisters : Obligations.OnlyTheHostWritesItsRegisters := by
  unfold Obligations.OnlyTheHostWritesItsRegisters
  intro s t h hr hb
  obtain ⟨u, d, hu, -, rfl⟩ := step_parts_of_not_rst h hr
  rw [hostAccess_of_no_write hb] at hu
  cases hu
  exact ⟨rfl, rfl⟩

/-- Settles O29: the outputs recorded are `CycleOut.zero` in a reset cycle and `outputs` of the starting state in any other. -/
theorem outputsAreFunctionsOfTheState : Obligations.OutputsAreFunctionsOfTheState := by
  unfold Obligations.OutputsAreFunctionsOfTheState
  intro s t h
  constructor
  · intro hr
    rw [step_eq_resetCycle h hr]
    exact ⟨rfl, rfl, rfl, rfl, rfl⟩
  · intro hr
    obtain ⟨u, d, -, -, rfl⟩ := step_parts_of_not_rst h hr
    exact ⟨rfl, rfl, Decoder.busy_iff _, rfl, rfl⟩

/-- Settles O30: in a reset cycle no output is valid or ready and every queue and record stays; in any other cycle each port moves
by its own pair of signals. -/
theorem bytesMoveOnlyWhenBothReady : Obligations.BytesMoveOnlyWhenBothReady := by
  unfold Obligations.BytesMoveOnlyWhenBothReady
  intro s t h
  dsimp only
  cases hr : (currentInput s).rst
  case true =>
    rw [step_eq_resetCycle h hr]
    simp [envAfterReset, CycleOut.zero, rxHeld]
  case false =>
    obtain ⟨u, d, -, -, rfl⟩ := step_parts_of_not_rst h hr
    simp only [assemble_env, envAfter_txTaken, envAfter_rxQueue, envAfter_rxReady]
    refine ⟨fun hmoves => if_pos hmoves, ?_, ?_, ?_, rfl, ?_⟩
    · rintro (hv | hx)
      · rw [hv]; simp
      · rw [hx]; simp
    · intro b q hheld hoffer hbusy
      rw [if_pos ⟨hbusy, hoffer⟩, rxHeld, hheld, List.tail_cons]
    · rintro (hheld | hoffer | hbusy)
      · simp [rxHeld, hheld]
      · simp [rxHeld, hoffer]
      · simp [rxHeld, hbusy]
    · simp

/-- Settles O47: a reset cycle keeps `BUF`; any other cycle gives it the decoder's part, which stores at `idx` or nowhere. -/
theorem onlyDbufPayloadWritesBuf : Obligations.OnlyDbufPayloadWritesBuf := by
  unfold Obligations.OnlyDbufPayloadWritesBuf
  intro s t i h hno
  have hparams := step_params h
  rcases step_cases h with ⟨-, rfl⟩ | ⟨hr, u, d, -, hd, rfl⟩
  · exact bufByte_congr rfl hparams i
  · rcases decoderCycle_buf hd with hbuf | ⟨hpay, hmode, hidx, b, hrx, hbuf⟩
    · exact bufByte_congr hbuf hparams i
    · have hconsumes : Consumes s b := ⟨hr, by simp [hpay], hrx⟩
      have hne : i ≠ s.dec.idx.toNat := fun e => hno ⟨⟨b, hconsumes⟩, hpay, hmode, e.symm⟩
      rw [bufByte_store hbuf hparams hidx, if_neg hne]

/-- Settles O48: a running read takes the decoder's part of the cycle, an idle decoder the host's, which never writes the two
registers. -/
theorem onlyReadRespWritesRespRegisters : Obligations.OnlyReadRespWritesRespRegisters := by
  unfold Obligations.OnlyReadRespWritesRespRegisters
  intro s t h hr hpay hexp
  obtain ⟨u, d, hu, hd, rfl⟩ := step_parts_of_not_rst h hr
  rcases decoderCycle_cases hd with ⟨hidle, -⟩ | ⟨b, hb, hrx, hc⟩ | ⟨hb, hrx, rfl⟩
  · rw [assemble_dec, (Decoder.busy_eq_false_iff _).mpr hidle]
    exact hostAccess_resp hu
  · rw [assemble_dec_of_running hb]
    exact consumeByte_resp hb hc fun hp => hpay ⟨⟨b, hr, hb, hrx⟩, hp⟩
  · rw [assemble_dec_of_running hb]
    obtain ⟨-, -, -, -, -, -, -, -, -, hkeep⟩ := silent_frame s (currentInput s).tick
    exact hkeep fun ⟨hmode, hle⟩ => hexp ⟨⟨hr, hb, hrx⟩, hmode, hle⟩

/-- Settles O18: the access is the command, so the parts of the cycle are those given. -/
theorem stepRunsTheDecodedCommand : Obligations.StepRunsTheDecodedCommand := by
  unfold Obligations.StepRunsTheDecodedCommand
  intro s u i d hr hi hx hd
  have hu : hostAccess (currentInput s).bus s = .next u := by rw [hostAccess_of_decode hi, hx]
  exact ⟨_, step_of_parts hr hu hd, rfl, rfl, rfl, rfl, rfl, rfl, rfl, rfl, rfl, rfl⟩

end Sys2Proof.Proofs
end

section
/-! The host bus space (R200 to R234): what each word address names, what a read returns and a write stores there, what an access
leaves to a running operation, and the obligations that follow. -/

namespace Sys2Proof

/-! ### What a word address names -/

/-- Each of the first thirteen words is a register, the one at its offset (R110). -/
theorem registerAt_register {w : Nat} (h : w < 13) : ∃ r : Reg, registerAt w = .reg r ∧ w = r.offset.toNat / 4 := by
  interval_cases w <;> exact ⟨_, rfl, rfl⟩

/-- Everything a byte address can name, with the number of its word (R201). -/
theorem place_cases (addr : BitVec 13) :
    (∃ r : Reg, place addr = .reg r ∧ addr.toNat / 4 = r.offset.toNat / 4) ∨
    (13 ≤ addr.toNat / 4 ∧ addr.toNat / 4 < 0x400 ∧ place addr = .reserved) ∨
    (0x400 ≤ addr.toNat / 4 ∧ place addr = .bufWord (addr.toNat / 4 - 0x400)) := by
  rw [place_eq]
  by_cases hbuf : 0x400 ≤ addr.toNat / 4
  · exact .inr (.inr ⟨hbuf, if_pos hbuf⟩)
  · rw [if_neg hbuf]
    by_cases hres : 13 ≤ addr.toNat / 4
    · exact .inr (.inl ⟨hres, Nat.lt_of_not_le hbuf, registerAt_reserved hres⟩)
    · exact .inl (registerAt_register (Nat.lt_of_not_le hres))

/-- A word past the registers is none of them (R110). -/
theorem word_ne_of_register_lt {w n : Nat} (hw : 13 ≤ w) (hn : n < 13) : w ≠ n := (Nat.lt_of_lt_of_le hn hw).ne'

/-- An address names a register exactly when its word is the one at the register's offset (R110, R200). -/
theorem place_eq_reg_iff (addr : BitVec 13) (r : Reg) : place addr = .reg r ↔ addr.toNat / 4 = r.offset.toNat / 4 := by
  constructor
  · intro h
    rcases place_cases addr with ⟨r', hp, hw⟩ | ⟨-, -, hp⟩ | ⟨-, hp⟩ <;> rw [h] at hp <;> cases hp
    exact hw
  · intro hw
    rw [place_eq, hw]
    cases r <;> rfl

/-- An access is a command exactly when it writes `CTRL`, or `STATUS` with bit 8 set (R211, R320, R620). -/
theorem decode_eq_ok_iff (b : BusIn) :
    (∃ i, decode b = .ok i) ↔
      b.en = true ∧ b.we = true ∧ (place b.addr = .reg .ctrl ∨ (place b.addr = .reg .status ∧ b.wdata.getLsbD 8 = true)) := by
  unfold decode
  cases hen : b.en
  · simp
  · cases hwe : b.we
    · simp
    · rcases place_cases b.addr with ⟨r, hp, -⟩ | ⟨-, -, hp⟩ | ⟨-, hp⟩
      · cases hbit : b.wdata.getLsbD 8 <;> cases r <;> simp [hp]
      · simp [hp]
      · simp [hp]

end Sys2Proof

namespace Sys2Proof.Machine

/-! ### What a write stores -/

/-- The two bytes of a written sync pair are the word's low two (R121). -/
theorem syncOf_eq (v : Word) : syncOf v = ⟨v.extractLsb' 0 8, v.extractLsb' 8 8⟩ := rfl

/-- What a write of any address makes of each host register, by the number of the word written (R211). -/
theorem storeAccess_write (r : HostRegs) (addr : BitVec 13) (v : Word) :
    storeAccess r (BusIn.write addr v) =
      { encOpcode := if addr.toNat / 4 = 2 then v.extractLsb' 0 16 else r.encOpcode
        encParam := if addr.toNat / 4 = 3 then v else r.encParam
        decLen := if addr.toNat / 4 = 4 then v else r.decLen
        cfgDevid := if addr.toNat / 4 = 8 then v.extractLsb' 0 16 else r.cfgDevid
        cfgCmdSync := if addr.toNat / 4 = 9 then syncOf v else r.cfgCmdSync
        cfgRespSync := if addr.toNat / 4 = 10 then syncOf v else r.cfgRespSync
        cfgDataSync := if addr.toNat / 4 = 11 then syncOf v else r.cfgDataSync
        cfgTimeout := if addr.toNat / 4 = 12 then v else r.cfgTimeout } := by
  rcases place_cases addr with ⟨reg, hp, hw⟩ | ⟨hw, -, hp⟩ | ⟨hw, hp⟩
  · rw [hw]
    cases reg <;> simp [storeAccess, BusIn.write, hp, writeRegister, Reg.offset, BitVec.setWidth_eq_extractLsb']
  · simp [storeAccess, BusIn.write, hp, word_ne_of_register_lt hw]
  · simp [storeAccess, BusIn.write, hp, word_ne_of_register_lt (le_trans (by omega) hw)]

/-- A write that is no command adds to the cycle without an access only what it stores (R211). -/
theorem step_store {s t : State} {addr : BitVec 13} {v : Word} {e : NoCommand} (h : step (presentAccess s BusIn.idle) = .next t)
    (he : decode (BusIn.write addr v) = .error e) :
    step (presentAccess s (BusIn.write addr v)) = .next { t with regs := storeAccess s.regs (BusIn.write addr v) } := by
  obtain ⟨-, hrej, -⟩ := step_idle_frame h
  obtain ⟨henc, hdec⟩ := step_idle_units h
  rw [step_write h (hostAccess_of_error he _)]
  simp [henc, hdec, hrej]

/-! ### What a read returns -/

/-- A sync pair on the bus: `S1` in bits [7:0], `S2` in [15:8], 0 above (R121). -/
theorem syncWord_toNat (p : SyncPair) : ((p.s2 ++ p.s1).setWidth 32).toNat = p.s2.toNat * 256 + p.s1.toNat := by
  rw [BitVec.toNat_setWidth_of_le (by omega), toNat_append_eq_add, Nat.mul_comm, show 2 ^ 8 = 256 by rfl]

/-- A 16-bit field on the bus has its own value (R111). -/
theorem halfWord_toNat (h : Half) : (h.setWidth 32).toNat = h.toNat := BitVec.toNat_setWidth_of_le (by omega)

/-- Byte `j` of a word of the `BUF` window is byte `4k + j` of `BUF` (R202, R222). -/
theorem extractLsb'_bufWindowWord (s : State) (k : Nat) {j : Nat} (hj : j < 4) :
    (bufWindowWord s k).extractLsb' (8 * j) 8 = bufByte s (4 * k + j) := by
  unfold bufWindowWord
  interval_cases j
  · exact BitVec.extractLsb'_append_eq_right
  · rw [BitVec.extractLsb'_append_eq_of_le (by decide)]
    exact BitVec.extractLsb'_append_eq_right
  · rw [BitVec.extractLsb'_append_eq_of_le (by decide), BitVec.extractLsb'_append_eq_of_le (by decide)]
    exact BitVec.extractLsb'_append_eq_right
  · rw [BitVec.extractLsb'_append_eq_of_le (by decide), BitVec.extractLsb'_append_eq_of_le (by decide)]
    exact BitVec.extractLsb'_append_eq_left

/-- There is no byte of `BUF` at or above its capacity: it reads 0 (R202). -/
theorem bufByte_of_le {s : State} {i : Nat} (h : s.params.bufBytes ≤ i) : bufByte s i = 0 := if_neg (Nat.not_lt.mpr h)

/-- What is read does not depend on the access presented. -/
theorem memRead_presentAccess (s : State) (b : BusIn) (addr : BitVec 13) : memRead (presentAccess s b) addr = memRead s addr := by
  rcases place_cases addr with ⟨r, hp, -⟩ | ⟨-, -, hp⟩ | ⟨-, hp⟩ <;> simp only [memRead, hp]
  · cases r <;> rfl
  · rfl

/-- Without a read `bus_rdata` is 0 and nothing is recorded as read (R210). -/
theorem envAfter_idle (s : State) :
    (envAfter (presentAccess s BusIn.idle) (presented s BusIn.idle)).out.busRdata = 0 ∧
    (envAfter (presentAccess s BusIn.idle) (presented s BusIn.idle)).hostReads = s.env.hostReads := ⟨rfl, rfl⟩

/-- A read leaves the agents as a cycle without an access does, but for the word returned (R210; log 11). -/
theorem envAfter_read (s : State) (addr : BitVec 13) :
    envAfter (presentAccess s (BusIn.read addr)) (presented s (BusIn.read addr)) =
      { envAfter (presentAccess s BusIn.idle) (presented s BusIn.idle) with
        hostReads := s.env.hostReads ++ [memRead s addr]
        out := { (envAfter (presentAccess s BusIn.idle) (presented s BusIn.idle)).out with busRdata := memRead s addr } } := by
  rw [← memRead_presentAccess s (BusIn.read addr)]
  rfl

/-! ### What a running operation keeps (R231, R234) -/

/-- The encoder's part of a cycle sends the frame and never writes it (R410, R411). -/
theorem encoderCycle_frame (e : Encoder) (txReady : Bool) : (encoderCycle e txReady).frame = e.frame := by
  unfold encoderCycle
  split
  · split <;> rfl
  · rfl

/-- The decoder's part of a cycle never writes the mode or a latched value (R455, R456). -/
theorem decoderCycle_latched {s : State} {rx : Option Byte} {tick : Bool} {d : DecoderOut}
    (h : decoderCycle s rx tick = .ok d) :
    d.dec.mode = s.dec.mode ∧ d.dec.lS1 = s.dec.lS1 ∧ d.dec.lS2 = s.dec.lS2 ∧ d.dec.lDevid = s.dec.lDevid ∧
    d.dec.lTimeout = s.dec.lTimeout ∧ d.dec.lLen = s.dec.lLen := by
  rcases decoderCycle_cases h with ⟨-, rfl⟩ | ⟨b, hb, -, hc⟩ | ⟨-, -, rfl⟩
  · exact ⟨rfl, rfl, rfl, rfl, rfl, rfl⟩
  · obtain ⟨hmode, hs1, hs2, hdevid, htimeout, hlen, -⟩ := consume_frame hb hc
    exact ⟨hmode, hs1, hs2, hdevid, htimeout, hlen⟩
  · obtain ⟨hmode, hs1, hs2, hdevid, htimeout, hlen, -⟩ := silent_frame s tick
    exact ⟨hmode, hs1, hs2, hdevid, htimeout, hlen⟩

end Sys2Proof.Machine

namespace Sys2Proof.Proofs

open Sys2Proof Sys2Proof.Machine

/-- Settles O5: `decode` reads the place written, and the place is given by the number of its word. -/
theorem onlyCtrlAndStatusClearAreCommands : Obligations.OnlyCtrlAndStatusClearAreCommands := by
  unfold Obligations.OnlyCtrlAndStatusClearAreCommands
  intro b
  have hbit : b.wdata.getLsbD 8 = true ↔ b.wdata.toNat / 256 % 2 = 1 := by
    simp [BitVec.getLsbD, Nat.testBit_eq_decide_div_mod_eq]
  rw [decode_eq_ok_iff, place_eq_reg_iff, place_eq_reg_iff, hbit]
  rfl

/-- Settles O21: the write is no command, so all it adds to the cycle is the register it stores. -/
theorem registerWriteStoresItsFields : Obligations.RegisterWriteStoresItsFields := by
  unfold Obligations.RegisterWriteStoresItsFields
  intro s t addr v h hctrl hstatus
  have hno : ¬ ∃ i, decode (BusIn.write addr v) = .ok i := by
    rw [decode_eq_ok_iff, place_eq_reg_iff, place_eq_reg_iff]
    rintro ⟨-, -, hw | ⟨hw, hbit⟩⟩
    · exact hctrl hw
    · exact Bool.false_ne_true ((hstatus hw).symm.trans hbit)
  cases he : decode (BusIn.write addr v) with
  | ok i => exact absurd ⟨i, he⟩ hno
  | error e => rw [step_store h he, storeAccess_write, syncOf_eq]

/-- Settles O22: register by register, and 0 at every reserved word. -/
theorem registerReadReturnsTheRegister : Obligations.RegisterReadReturnsTheRegister := by
  unfold Obligations.RegisterReadReturnsTheRegister
  intro s addr haddr
  dsimp only
  rcases place_cases addr with ⟨r, hp, hw⟩ | ⟨hw, -, hp⟩ | ⟨hw, -⟩
  · rw [hw, memRead, hp]
    cases r
    case encOpcode | respCode | cfgDevid => exact halfWord_toNat _
    case cfgCmdSync | cfgRespSync | cfgDataSync => exact syncWord_toNat _
    all_goals rfl
  · simp [memRead, hp, word_ne_of_register_lt hw]
  · omega

/-- Settles O23: the address names word `k` of the window. -/
theorem bufWindowPacksLittleEndian : Obligations.BufWindowPacksLittleEndian := by
  unfold Obligations.BufWindowPacksLittleEndian
  intro s addr haddr
  dsimp only
  have hread : memRead s addr = bufWindowWord s ((addr.toNat - 0x1000) / 4) := by
    rw [memRead, place_eq, if_pos (by omega), show addr.toNat / 4 - 0x400 = (addr.toNat - 0x1000) / 4 by omega]
  rw [hread]
  exact ⟨fun j hj => extractLsb'_bufWindowWord s _ hj, fun i hi => bufByte_of_le hi⟩

/-- Settles O24: the host's part of the cycle is empty with the read as without, and the agents differ by the word returned. -/
theorem readHasNoSideEffect : Obligations.ReadHasNoSideEffect := by
  unfold Obligations.ReadHasNoSideEffect
  intro s t addr h
  obtain ⟨d, hd, rfl⟩ := step_idle_cases h
  obtain ⟨hrdata, hreads⟩ := envAfter_idle s
  refine ⟨hrdata, hreads, ?_⟩
  rw [step_access hd (hostAccess_read addr _)]
  simp only [assemble, envAfter_read]
  rfl

/-- Settles O49: a unit busy at the start of the cycle takes its own step, whatever the access, and that step keeps what is
latched. -/
theorem runningOperationKeepsItsLatchedValues : Obligations.RunningOperationKeepsItsLatchedValues := by
  unfold Obligations.RunningOperationKeepsItsLatchedValues
  intro s t h hr
  obtain ⟨u, d, -, hd, rfl⟩ := step_parts_of_not_rst h hr
  constructor
  · intro hb
    rw [assemble_enc, if_pos hb, encoderCycle_frame]
  · intro hb
    rw [assemble_dec_of_running hb]
    exact decoderCycle_latched hd

end Sys2Proof.Proofs
end

section
/-! The encodings (R300 to R340): the command a written word is, the checksum of a list of bytes as a number, and the
obligations that follow. -/

namespace Sys2Proof

/-! ### The `CMD` field as a number -/

/-- The `CMD` field is the word modulo 8: bits [31:3] are ignored (R320, R321). -/
theorem cmdField_toNat (v : Word) : (cmdField v).toNat = v.toNat % 8 := by
  simp [cmdField, BitVec.extractLsb'_toNat]

end Sys2Proof

namespace Sys2Proof.Machine

/-! ### The checksum as a number -/

/-- The checksum of any list of bytes is their sum modulo 2^16 (R303). -/
theorem sum16_toNat (bs : List Byte) : (sum16 bs).toNat = (bs.map BitVec.toNat).sum % 0x10000 := by
  induction bs using List.reverseRecOn with
  | nil => rfl
  | append_singleton bs b ih =>
    have hb : (b.setWidth 16).toNat = b.toNat := BitVec.toNat_setWidth_of_le (by omega)
    rw [sum16_append_singleton, BitVec.toNat_add, ih, hb]
    simp

/-- A list of bytes sums to at most 255 for each of them. -/
theorem sum_bytes_le (bs : List Byte) : (bs.map BitVec.toNat).sum ≤ bs.length * 0xFF := by
  have hbyte : ∀ n ∈ bs.map BitVec.toNat, n ≤ 0xFF := by
    intro n hn
    obtain ⟨b, -, rfl⟩ := List.mem_map.mp hn
    exact Nat.le_of_lt_succ b.isLt
  simpa using List.sum_le_card_nsmul _ _ hbyte

end Sys2Proof.Machine

namespace Sys2Proof.Proofs

open Sys2Proof Sys2Proof.Machine

/-- Settles O4: an encoding is a write of `CTRL` with the command's code in its low bits, or of `STATUS` with bit 8 set. -/
theorem decodeOfEncodeIsTheCommand : Obligations.DecodeOfEncodeIsTheCommand := by
  unfold Obligations.DecodeOfEncodeIsTheCommand
  exact decode_encodeWith

/-- Settles O3: the four addresses all name `CTRL`, and the field that selects the command is the word modulo 8. -/
theorem ctrlWordSelectsCommandByLowBits : Obligations.CtrlWordSelectsCommandByLowBits := by
  unfold Obligations.CtrlWordSelectsCommandByLowBits
  intro v alow
  have hctrl : place (0#11 ++ alow) = .reg .ctrl := place_ctrl alow
  have hcmd := instrOfCmd_eq (cmdField v)
  rw [cmdField_toNat] at hcmd
  exact (decode_write_ctrl hctrl v).trans (congrArg Except.ok hcmd)

/-- Settles O11: ten bytes sum to at most 2550, so the sum modulo 2^16 is the sum itself. -/
theorem commandChecksumNeverWraps : Obligations.CommandChecksumNeverWraps := by
  unfold Obligations.CommandChecksumNeverWraps
  intro bs hlen
  have hbound : (bs.map BitVec.toNat).sum ≤ 0x09F6 := (sum_bytes_le bs).trans_eq (by rw [hlen])
  have hsum : (sum16 bs).toNat = (bs.map BitVec.toNat).sum :=
    (sum16_toNat bs).trans (Nat.mod_eq_of_lt (Nat.lt_of_le_of_lt hbound (by decide)))
  exact ⟨hsum, hsum.trans_le hbound⟩

/-- Settles O6: each word is its command's encoding, the ignored bits at the values the word shows. -/
theorem specWordsDecode : Obligations.SpecWordsDecode := by
  unfold Obligations.SpecWordsDecode
  exact ⟨decode_encodeWith .nop 0 0xFFFFFFF8, decode_encodeWith .encode 0 0, decode_encodeWith .readResp 0 0x00000008,
    decode_encodeWith .readDataBuf 0 0, decode_encodeWith .readDataStream 0 0, decode_encodeWith .reserved5 0 0,
    decode_encodeWith .reserved6 0 0, decode_encodeWith .reserved7 0 0, decode_encodeWith .clrRej 0 0⟩

end Sys2Proof.Proofs
end

section
/-! The encoder (R400 to R414): the packet `ENCODE` latches, the encoder's part of a cycle, the transmit transport's record over a
run, and the obligations that follow; with the invariant of every reachable state, under which no cycle of a run stops it. -/

namespace Sys2Proof.Machine

/-! ### The packet (R300, R303, R400) -/

/-- `ENCODE` on an idle encoder (R400). -/
theorem exec_encode_of_idle {s : State} (hb : s.enc.busy = false) :
    exec .encode s = .next { s with enc := { busy := true, done := false, frame := commandPacket s.regs, idx := 0 } } := by
  simp [exec, execEncode, hb]

/-- The packet's checksum, written out: the sum of its first ten bytes (R303). -/
theorem sum16_commandHead (r : HostRegs) :
    sum16 (commandHead r) =
      r.cfgCmdSync.s1.setWidth 16 + r.cfgCmdSync.s2.setWidth 16 +
      (byteOf r.cfgDevid 0).setWidth 16 + (byteOf r.cfgDevid 1).setWidth 16 +
      (byteOf r.encParam 0).setWidth 16 + (byteOf r.encParam 1).setWidth 16 +
      (byteOf r.encParam 2).setWidth 16 + (byteOf r.encParam 3).setWidth 16 +
      (byteOf r.encOpcode 0).setWidth 16 + (byteOf r.encOpcode 1).setWidth 16 := by
  simp [sum16, commandHead]

/-- Two bytes of a 16-bit value, put together again (R220, R305). -/
theorem half_byteOf (v : Half) : half (byteOf v 1) (byteOf v 0) = v := by
  apply BitVec.eq_of_toNat_eq
  have hv := v.isLt
  simp only [half, byteOf, toNat_append_eq_add, BitVec.extractLsb'_toNat, Nat.shiftRight_eq_div_pow]
  omega

/-- The packet's last two bytes are the checksum of its first ten (R303, R414). -/
theorem commandPacket_checksum (r : HostRegs) :
    ((commandPacket r)[11] ++ (commandPacket r)[10] : Half) = sum16 ((commandPacket r).toList.take 10) :=
  half_byteOf (sum16 (commandHead r))

/-! ### The encoder's part of a cycle (R410 to R412) -/

section
variable {e : Encoder}

/-- The twelfth byte taken ends the packet (R411). -/
theorem encoderCycle_last (hb : e.busy = true) (hi : e.idx.val = 11) :
    encoderCycle e true = { e with busy := false, done := true, idx := 0 } := by
  have hlast : e.idx = 11 := Fin.ext hi
  simp [encoderCycle, hb, hlast]

/-- Any other byte taken is counted (R410). -/
theorem encoderCycle_count (hb : e.busy = true) (hi : e.idx.val ≠ 11) :
    encoderCycle e true = { e with idx := e.idx + 1 } := by
  have hnotLast : e.idx ≠ 11 := fun h => hi (congrArg Fin.val h)
  simp [encoderCycle, hb, hnotLast]

/-- A byte not taken is offered again (R410). -/
theorem encoderCycle_held : encoderCycle e false = e := by
  simp [encoderCycle]

end

/-- An index that is not the last counts up without wrapping (R130). -/
theorem idx_succ_val {i : Fin 12} (hi : i.val ≠ 11) : (i + 1).val = i.val + 1 :=
  Fin.val_add_one_of_lt' (by omega)

/-- The host's access leaves the encoder alone unless it is `ENCODE` (R400, R600). -/
theorem hostAccess_enc_of_not_encode {b : BusIn} {s u : State} (hu : hostAccess b s = .next u) (hb : decode b ≠ .ok .encode) :
    u.enc = s.enc := by
  rcases hostAccess_cases hu with ⟨i, hi, hx⟩ | ⟨-, rfl⟩
  · have hne : i ≠ .encode := by rintro rfl; exact hb hi
    rw [exec_enc hx, if_neg fun h => hne h.1]
  · rfl

/-- What the transmit transport has taken after a cycle without reset that starts with a busy encoder (R410). -/
theorem envAfter_txTaken_of_busy {s : State} (hb : s.enc.busy = true) (inp : CycleIn) :
    (envAfter s inp).txTaken =
      if inp.txReady then s.env.txTaken ++ [s.enc.frame[s.enc.idx]] else s.env.txTaken := by
  simp [envAfter_txTaken, outputs, hb]

/-! ### The encoder's invariant (R411, R414) -/

theorem Encoder.reset_inv : Encoder.reset.Inv :=
  { busy_not_done := by decide, idle_idx := by decide, checksum := by decide }

/-- The encoder's part of a cycle keeps the invariant of a busy encoder. -/
theorem encoderCycle_inv {e : Encoder} (h : e.Inv) (hb : e.busy = true) (txReady : Bool) : (encoderCycle e txReady).Inv := by
  cases txReady
  case false => rwa [encoderCycle_held]
  case true =>
    by_cases hi : e.idx.val = 11
    · rw [encoderCycle_last hb hi]
      exact { h with busy_not_done := by simp, idle_idx := fun _ => rfl }
    · rw [encoderCycle_count hb hi]
      exact { h with idle_idx := by simp [hb] }

/-! ### The decoder's invariant (R119, R135, R330) -/

theorem Decoder.reset_inv (cap : Nat) : Decoder.reset.Inv cap := by
  constructor <;> simp [Decoder.reset]

/-- A read that starts meets the invariant if its length fits its mode (R452, R500, R550). -/
theorem startRead_inv {m : DecMode} {len : Word} {cap : Nat} (hmode : m ≠ .none) (hresp : m = .resp → len = 6)
    (hdbuf : m = .dbuf → len.toNat ≤ cap) (sync : SyncPair) (s : State) : (startRead m sync len s).dec.Inv cap where
  srFill_le := Nat.zero_le _
  done_iff := by simp
  busy_not_done _ := rfl
  busy_mode _ := hmode
  resp_len hm _ := hresp hm
  dbuf_len hm _ := hdbuf hm
  badlen_mode h := by simp at h
  seek_idx _ := rfl
  devid_idx h := by simp at h
  payload_idx h := by simp at h
  cksum_idx h := by simp at h
  ok_count h := by simp at h

namespace Decoder.Inv
variable {cap : Nat} {d : Decoder} (h : d.Inv cap)
include h

/-- A running read has no result (R330, R452). -/
theorem result_of_running (hb : d.state ≠ .idle) : d.result = .none := by
  by_contra hr
  exact Bool.false_ne_true ((h.busy_not_done hb).symm.trans (h.done_iff.mpr hr))

/-- A read refused for its length (R550). -/
theorem refused (hidle : d.state = .idle) : ({ d with mode := .dbuf, done := true, result := .badlen } : Decoder).Inv cap :=
  { h with
    done_iff := by simp
    busy_not_done := fun hb => absurd hidle hb
    busy_mode := fun hb => absurd hidle hb
    resp_len := by simp
    dbuf_len := by simp [hidle]
    badlen_mode := fun _ => rfl
    ok_count := by simp }

/-- The silence counter is no concern of the invariant (R455, R456). -/
theorem withSilence (sc : Word) : ({ d with sc := sc } : Decoder).Inv cap := { h with }

/-- The values of the response registers are no concern of the invariant (R510, R515). -/
theorem withResp (param : Word) (code : Half) : ({ d with respParam := param, respCode := code } : Decoder).Inv cap := { h with }

/-- Of the shift register only the fill is a concern of the invariant (R131). -/
theorem withShift {fill : BitVec 2} (hfill : fill.toNat ≤ 2) (sr : Half) :
    ({ d with sr := sr, srFill := fill } : Decoder).Inv cap := { h with srFill_le := hfill }

/-- A running read moves to a state whose bounds on `idx` and `DEC_COUNT` hold (R119, R135). -/
theorem movesTo (hb : d.state ≠ .idle) {state : DecState} {idx count : Word} (hseek : state = .seek → idx = 0)
    (hdevid : state = .devid → idx.toNat ≤ 1) (hpayload : state = .payload → idx.toNat < d.lLen.toNat ∧ count = idx)
    (hcksum : state = .cksum → idx.toNat ≤ 1 ∧ count = d.lLen) (sc : Word) (acc : Half) :
    ({ d with sc := sc, acc := acc, count := count, state := state, idx := idx } : Decoder).Inv cap :=
  { h with
    busy_not_done := fun _ => h.busy_not_done hb
    busy_mode := fun _ => h.busy_mode hb
    resp_len := fun hm _ => h.resp_len hm (.inl hb)
    dbuf_len := fun hm _ => h.dbuf_len hm (.inl hb)
    seek_idx := hseek
    devid_idx := hdevid
    payload_idx := hpayload
    cksum_idx := hcksum
    ok_count := by simp [h.result_of_running hb] }

/-- SEEK, with or without a match (R460). -/
theorem afterSeekByte (hs : d.state = .seek) (b : Byte) : (seekByte d b).Inv cap := by
  have hb : d.state ≠ .idle := by simp [hs]
  have hfill : (BitVec.ofNat 2 (min (d.srFill.toNat + 1) 2)).toNat ≤ 2 := by
    rw [BitVec.toNat_ofNat]; omega
  rw [seekByte_eq]
  split
  · exact (h.withShift hfill _).movesTo hb (by simp) (fun _ => Nat.zero_le _) (by simp) (by simp) _ _
  · exact h.withShift hfill _

/-- A mismatch: a running read goes back to SEEK (R475). -/
theorem resynchronised (hb : d.state ≠ .idle) :
    ({ d with sc := 0, state := .seek, sr := 0, srFill := 0, idx := 0 } : Decoder).Inv cap :=
  (h.withShift (fill := 0) (Nat.zero_le 2) 0).movesTo hb (fun _ => rfl) (by simp) (by simp) (by simp) _ _

/-- The first of a pair of bytes, kept in DEVID or CKSUM (R465, R470). -/
theorem keepsFirstByte (hs : d.state = .devid ∨ d.state = .cksum) (b : Byte) :
    ({ d with sc := 0, tmp := b, idx := 1 } : Decoder).Inv cap :=
  { h with
    seek_idx := fun (hseek : d.state = .seek) => by simp [hseek] at hs
    devid_idx := fun _ => Nat.le_refl 1
    payload_idx := fun (hpay : d.state = .payload) => by simp [hpay] at hs
    cksum_idx := fun hck => ⟨Nat.le_refl 1, (h.cksum_idx hck).2⟩ }

/-- The device ID accepted: the checksum follows if the length is 0, the payload if not (R467). -/
theorem devidAccepted (hb : d.state ≠ .idle) (acc : Half) :
    ({ d with sc := 0, acc := acc, idx := 0, count := 0, state := if d.lLen = 0 then .cksum else .payload } : Decoder).Inv cap := by
  by_cases hlen : d.lLen = 0
  · rw [if_pos hlen]
    exact h.movesTo hb (by simp) (by simp) (by simp) (fun _ => ⟨Nat.zero_le _, hlen.symm⟩) _ _
  · have hpos : 0 < d.lLen.toNat := Nat.pos_of_ne_zero fun hz => hlen (BitVec.eq_of_toNat_eq hz)
    rw [if_neg hlen]
    exact h.movesTo hb (idx := 0) (by simp) (by simp) (fun _ => ⟨hpos, rfl⟩) (by simp) _ _

/-- A payload byte, whatever its delivery: one more counted, and the last one leads to the checksum (R468). -/
theorem afterPayloadByte (hs : d.state = .payload) (b : Byte) : (afterPayload d b).Inv cap := by
  have hb : d.state ≠ .idle := by simp [hs]
  obtain ⟨hlt, hcount⟩ := h.payload_idx hs
  unfold afterPayload
  rw [hcount]
  by_cases hlast : d.idx + 1 = d.lLen
  · rw [if_pos hlast, if_pos hlast]
    exact h.movesTo hb (by simp) (by simp) (by simp) (fun _ => ⟨Nat.zero_le _, hlast⟩) _ _
  · have hmore : (d.idx + 1).toNat < d.lLen.toNat := by bv_omega
    rw [if_neg hlast, if_neg hlast]
    exact h.movesTo hb (by simp) (by simp) (fun _ => ⟨hmore, rfl⟩) (by simp) _ _

/-- A read that ends: with OK only at its checksum, where every byte is counted, and never with BADLEN (R471, R480). -/
theorem finished {r : DecResult} (hnone : r ≠ .none) (hbadlen : r ≠ .badlen) (hok : r = .ok → d.state = .cksum) :
    ({ d with state := .idle, done := true, result := r } : Decoder).Inv cap := by
  have hrunning : DecState.idle ≠ .idle ∨ r = .ok → d.state ≠ .idle := by
    rintro (hidle | hr)
    · exact absurd rfl hidle
    · simp [hok hr]
  exact { h with
    done_iff := iff_of_true rfl hnone
    busy_not_done := by simp
    busy_mode := by simp
    resp_len := fun hm hr => h.resp_len hm (.inl (hrunning hr))
    dbuf_len := fun hm hr => h.dbuf_len hm (.inl (hrunning hr))
    badlen_mode := fun hr => absurd hr hbadlen
    seek_idx := by simp
    devid_idx := by simp
    payload_idx := by simp
    cksum_idx := by simp
    ok_count := fun hr => (h.cksum_idx (hok hr)).2 }

end Decoder.Inv

/-- A consumed byte keeps the decoder's invariant. -/
theorem consumeByte_inv {cap : Nat} {s : State} {b : Byte} {d : DecoderOut} (h : s.dec.Inv cap) (hb : s.dec.state ≠ .idle)
    (hc : consumeByte s b = .ok d) : d.dec.Inv cap := by
  rcases consumeByte_cases hb hc with ⟨hs, rfl⟩ | ⟨hs, -, rfl⟩ | ⟨-, -, -, rfl⟩ | ⟨-, -, -, rfl⟩ | ⟨hs, -, -, rfl⟩ |
    ⟨hs, -, -, -, rfl⟩ | ⟨hs, -, -, rfl⟩ | ⟨hs, -, rfl⟩ | ⟨hs, -, rfl⟩ | ⟨-, -, -, -, rfl⟩ | ⟨hs, -, -, rfl⟩
  · exact (h.withSilence 0).afterSeekByte hs b
  · exact h.keepsFirstByte (.inl hs) b
  · exact h.resynchronised hb
  · exact h.devidAccepted hb _
  · exact (h.afterPayloadByte hs b).withResp _ _
  · exact (h.afterPayloadByte hs b).withResp _ _
  · exact h.afterPayloadByte hs b
  · exact h.afterPayloadByte hs b
  · exact h.keepsFirstByte (.inr hs) b
  · exact h.resynchronised hb
  · exact (h.withSilence 0).finished (by simp) (by simp) fun _ => hs

/-- A silent cycle keeps the decoder's invariant. -/
theorem silentCycle_inv {cap : Nat} {s : State} (h : s.dec.Inv cap) (tick : Bool) : (silentCycle s tick).dec.Inv cap := by
  have htimeout : ({ s.dec with state := .idle, done := true, result := .timeout } : Decoder).Inv cap :=
    h.finished (by simp) (by simp) (by simp)
  rcases silentCycle_cases s tick with ⟨-, e⟩ | ⟨-, -, e⟩ | ⟨-, -, e⟩ <;> rw [e]
  · rcases timeoutRead_cases s with ⟨-, e⟩ | ⟨-, e⟩ <;> rw [e]
    · exact htimeout.withResp _ _
    · exact htimeout
  · exact h.withSilence _
  · exact h

/-- The decoder's part of a cycle keeps the decoder's invariant. -/
theorem decoderCycle_inv {cap : Nat} {s : State} {rx : Option Byte} {tick : Bool} {d : DecoderOut} (h : s.dec.Inv cap)
    (hd : decoderCycle s rx tick = .ok d) : d.dec.Inv cap := by
  rcases decoderCycle_cases hd with ⟨-, rfl⟩ | ⟨b, hb, -, hc⟩ | ⟨-, -, rfl⟩
  · exact h
  · exact consumeByte_inv h hb hc
  · exact silentCycle_inv h tick

/-! ### The invariant over a cycle (R700) -/

/-- The decoder a command leaves meets the invariant (R500, R550, R551). -/
theorem decoderAfterCommand_inv {s : State} (h : s.Inv) (i : Instr) : (decoderAfterCommand i s).Inv s.params.bufBytes := by
  cases hb : s.dec.busy
  case true => simpa [decoderAfterCommand, hb] using h.dec
  case false =>
    have hidle := (Decoder.busy_eq_false_iff _).mp hb
    cases i <;> simp only [decoderAfterCommand, hb, Bool.false_eq_true, if_false]
    case readResp => exact startRead_inv (by simp) (fun _ => rfl) (by simp) _ _
    case readDataBuf =>
      split
      · exact h.dec.refused hidle
      · next hfits => exact startRead_inv (by simp) (by simp) (fun _ => Nat.le_of_not_lt hfits) _ _
    case readDataStream => exact startRead_inv (by simp) (by simp) (by simp) _ _
    all_goals exact h.dec

/-- The units a host's access leaves meet the invariant. -/
theorem hostAccess_units_inv {b : BusIn} {s u : State} (h : s.Inv) (hu : hostAccess b s = .next u) :
    u.enc.Inv ∧ u.dec.Inv s.params.bufBytes := by
  rcases hostAccess_cases hu with ⟨i, -, hx⟩ | ⟨-, rfl⟩
  · rw [exec_enc hx, exec_dec hx]
    refine ⟨?_, decoderAfterCommand_inv h i⟩
    split
    · exact { busy_not_done := fun _ => rfl, idle_idx := fun _ => rfl, checksum := commandPacket_checksum s.regs }
    · exact h.enc
  · exact ⟨h.enc, h.dec⟩

/-- The decoder's part of a cycle keeps `BUF`'s memory canonical and within the buffer (R132, R560). -/
theorem decoderCycle_buf_inv {s : State} {rx : Option Byte} {tick : Bool} {d : DecoderOut} (h : s.Inv)
    (hd : decoderCycle s rx tick = .ok d) : Memory.wf d.buf ∧ ∀ c ∈ d.buf, c.1 < s.params.bufBytes := by
  rcases decoderCycle_buf hd with hbuf | ⟨-, -, hidx, b, -, hbuf⟩ <;> rw [hbuf]
  · exact ⟨h.buf_wf, h.buf_bound⟩
  · exact ⟨Memory.wf_store h.buf_wf _ b, Memory.bound_store h.buf_bound hidx b⟩

/-- An empty sink register holds 0, whatever was delivered (R571). -/
theorem sinkAfter_empty (o : Option Byte) (hv : (sinkAfter o).valid = false) : (sinkAfter o).data = 0 := by
  cases o
  · rfl
  · simp at hv

/-- The parts of a cycle put together meet the invariant if the cycle started in it. -/
theorem assemble_inv {s u : State} {d : DecoderOut} {inp : CycleIn} {rx : Option Byte} (h : s.Inv)
    (hu : hostAccess inp.bus s = .next u) (hd : decoderCycle s rx inp.tick = .ok d) : (assemble s u d inp).Inv := by
  obtain ⟨-, -, -, -, hparams, -⟩ := hostAccess_frame hu
  obtain ⟨huenc, hudec⟩ := hostAccess_units_inv h hu
  obtain ⟨hwf, hbound⟩ := decoderCycle_buf_inv h hd
  constructor
  case params => simpa [hparams] using h.params
  case enc =>
    rw [assemble_enc]
    split
    · next hb => exact encoderCycle_inv h.enc hb _
    · exact huenc
  case dec =>
    rw [assemble_dec, assemble_params, hparams]
    split
    · exact decoderCycle_inv h.dec hd
    · exact hudec
  case buf_wf => exact hwf
  case buf_bound => simpa [hparams] using hbound
  case sink_empty => exact sinkAfter_empty d.sink

/-- Every cycle that runs keeps the invariant. -/
theorem step_keeps_inv {s t : State} (h : s.Inv) (hs : step s = .next t) : t.Inv := by
  rcases step_cases hs with ⟨-, rfl⟩ | ⟨-, u, d, hu, hd, rfl⟩
  · exact ⟨h.params, Encoder.reset_inv, Decoder.reset_inv _, h.buf_wf, h.buf_bound, fun _ => rfl⟩
  · exact assemble_inv h hu hd

/-- Under the invariant the decoder's part of a cycle has its outcome (R700). -/
theorem decoderCycle_next {s : State} (h : s.Inv) (rx : Option Byte) (tick : Bool) : ∃ d, decoderCycle s rx tick = .ok d := by
  cases hb : s.dec.busy
  case false => exact ⟨_, decoderCycle_idle hb rx tick⟩
  case true =>
    cases rx with
    | none => exact ⟨_, decoderCycle_silent hb tick⟩
    | some b =>
      rw [decoderCycle_consume hb]
      exact consumeByte_next h ((Decoder.busy_iff _).mp hb) b

/-- Under the invariant every cycle runs (R700). -/
theorem step_next_of_inv {s : State} (h : s.Inv) : ∃ t, step s = .next t := by
  cases hr : (currentInput s).rst
  case true => exact ⟨_, step_of_rst hr⟩
  case false =>
    obtain ⟨u, hu⟩ := hostAccess_next (currentInput s).bus s
    obtain ⟨d, hd⟩ := decoderCycle_next h (rxOffered s (currentInput s)) (currentInput s).tick
    exact ⟨_, step_of_parts hr hu hd⟩

/-! ### A packet on its way (R410, R411) -/

/-- The packet `f` is being sent, its first `k` bytes taken after `taken`, and the run can go on. -/
structure Sending (f : Vector Byte 12) (taken : List Byte) (k : Nat) (s : State) : Prop where
  inv : s.Inv
  busy : s.enc.busy = true
  frame : s.enc.frame = f
  idx : s.enc.idx.val = k
  taken : s.env.txTaken = taken ++ f.toList.take k

namespace Sending
variable {f : Vector Byte 12} {taken : List Byte} {k : Nat} {s : State} (h : Sending f taken k s)
include h

/-- The encoder and the transmit record after a cycle without reset. -/
theorem step_parts (hr : (currentInput s).rst = false) :
    ∃ t, step s = .next t ∧ t.Inv ∧ t.enc = encoderCycle s.enc (currentInput s).txReady ∧
      t.env.txTaken = taken ++ f.toList.take (k + if (currentInput s).txReady then 1 else 0) := by
  obtain ⟨t, ht⟩ := step_next_of_inv h.inv
  obtain ⟨u, d, -, -, e⟩ := step_parts_of_not_rst ht hr
  refine ⟨t, ht, step_keeps_inv h.inv ht, by rw [e, assemble_enc, if_pos h.busy], ?_⟩
  rw [e, assemble_env, envAfter_txTaken_of_busy h.busy, h.taken]
  split
  · have hk : k < f.toList.length := by simp [← h.idx]
    have hbyte : s.enc.frame[s.enc.idx] = f.toList[k] := by simp [h.frame, ← h.idx]
    rw [hbyte, List.append_assoc, List.take_append_getElem hk]
  · rfl

/-- A cycle takes the next byte if the transport is ready, and holds it if not (R410). -/
theorem next (hr : (currentInput s).rst = false) (hk : k + (if (currentInput s).txReady then 1 else 0) ≤ 11) :
    ∃ t, step s = .next t ∧ Sending f taken (k + if (currentInput s).txReady then 1 else 0) t := by
  obtain ⟨t, ht, hinv, henc, htaken⟩ := h.step_parts hr
  refine ⟨t, ht, ?_⟩
  cases hx : (currentInput s).txReady <;> simp only [hx] at henc htaken hk
  case false =>
    rw [encoderCycle_held] at henc
    exact ⟨hinv, henc ▸ h.busy, henc ▸ h.frame, henc ▸ h.idx, htaken⟩
  case true =>
    have hlt : k + 1 ≤ 11 := hk
    have hi : s.enc.idx.val ≠ 11 := by rw [h.idx]; omega
    rw [encoderCycle_count h.busy hi] at henc
    refine ⟨hinv, by rw [henc]; exact h.busy, by rw [henc]; exact h.frame, ?_, htaken⟩
    rw [henc, ← h.idx]
    exact idx_succ_val hi

/-- Over listed cycles the bytes taken are those of the ready ones, in order. -/
theorem run {l rest : List CycleIn} (hsched : s.env.schedule = l ++ rest) (hr : ∀ c ∈ l, c.rst = false)
    (hk : k + l.countP (fun c => c.txReady) ≤ 11) :
    ∃ t, steps l.length s = .next t ∧ t.env.schedule = rest ∧ Sending f taken (k + l.countP fun c => c.txReady) t := by
  induction l generalizing s k with
  | nil => exact ⟨s, rfl, hsched, h⟩
  | cons c l ih =>
    have hin : currentInput s = c := currentInput_of_schedule hsched
    rw [List.countP_cons] at hk ⊢
    obtain ⟨u, hu, hsend⟩ := h.next (by rw [hin]; exact hr c List.mem_cons_self) (by rw [hin]; omega)
    rw [hin] at hsend
    have husched : u.env.schedule = l ++ rest := by rw [step_schedule hu, hsched]; rfl
    obtain ⟨t, ht, htsched, htsend⟩ := ih hsend husched (fun x hx => hr x (List.mem_cons_of_mem c hx)) (by omega)
    refine ⟨t, (steps_succ_of_step _ hu).trans ht, htsched, ?_⟩
    rwa [Nat.add_right_comm, Nat.add_assoc] at htsend

end Sending

/-- The twelfth byte taken ends the packet, every byte of it taken (R411). -/
theorem Sending.ends {f : Vector Byte 12} {taken : List Byte} {s : State} (h : Sending f taken 11 s)
    (hr : (currentInput s).rst = false) (hx : (currentInput s).txReady = true) :
    ∃ t, step s = .next t ∧ t.enc.busy = false ∧ t.enc.done = true ∧ t.env.txTaken = taken ++ f.toList := by
  obtain ⟨t, ht, -, henc, htaken⟩ := h.step_parts hr
  rw [hx, encoderCycle_last h.busy h.idx] at henc
  refine ⟨t, ht, by rw [henc], by rw [henc], ?_⟩
  rw [htaken, hx, List.take_of_length_le (by simp)]

end Sys2Proof.Machine

namespace Sys2Proof.Proofs

open Sys2Proof Sys2Proof.Machine

/-- Settles O31: a busy encoder takes its own step, which ends the packet, counts or holds; an idle one keeps what the host's access
leaves, and only `ENCODE` writes it. -/
theorem encoderSendsOneByteWhenTaken : Obligations.EncoderSendsOneByteWhenTaken := by
  unfold Obligations.EncoderSendsOneByteWhenTaken
  intro s t h hr
  obtain ⟨u, d, hu, -, rfl⟩ := step_parts_of_not_rst h hr
  rw [assemble_enc]
  refine ⟨fun hb hx hi => ?_, fun hb hx hi => ?_, fun hb hx => ?_, fun hb hno => ?_⟩
  · rw [if_pos hb, hx, encoderCycle_last hb hi]
    exact ⟨rfl, rfl, rfl, rfl⟩
  · rw [if_pos hb, hx, encoderCycle_count hb hi]
    exact ⟨hb, rfl, idx_succ_val hi, rfl⟩
  · rw [if_pos hb, hx, encoderCycle_held]
  · rw [hb]
    exact hostAccess_enc_of_not_encode hu hno

/-- Settles O32: the packet stays on its way, a byte further for each ready cycle, and at its last byte a ready cycle ends it. -/
theorem packetIsSentInOrder : Obligations.PacketIsSentInOrder := by
  unfold Obligations.PacketIsSentInOrder
  intro s l rest hinv hb hi hsched hr hk
  have hstart : Sending s.enc.frame s.env.txTaken 0 s := ⟨hinv, hb, rfl, hi, by simp⟩
  obtain ⟨t, ht, htsched, hsend⟩ := hstart.run hsched hr (by rwa [Nat.zero_add])
  rw [Nat.zero_add] at hsend
  refine ⟨t, ht, hsend.busy, hsend.frame, hsend.idx, hsend.taken, ?_⟩
  intro c rest' hrest hcr hcx h11
  have hin : currentInput t = c := currentInput_of_schedule (htsched.trans hrest)
  rw [h11] at hsend
  exact hsend.ends (by rw [hin]; exact hcr) (by rw [hin]; exact hcx)

/-- Settles O10: the packet's bytes are the registers' bytes, and its checksum is the sum of the ten before it. -/
theorem encodeLatchesThePacket : Obligations.EncodeLatchesThePacket := by
  unfold Obligations.EncodeLatchesThePacket
  intro s hb
  dsimp only
  simp only [exec_encode_of_idle hb, commandPacket, sum16_commandHead, byteOf, Nat.reduceMul]

end Sys2Proof.Proofs
end

section
/-! The decoder's framing (R455 to R487): what a cycle with a consumed byte and a silent cycle leave, how a silent read runs out,
what the running checksum holds, which frames a read accepts, and the obligations that follow. -/

namespace Sys2Proof.Machine

/-! ### A cycle with a consumed byte (R455) -/

section
variable {s : State} {b : Byte} (h : Consumes s b)
include h

/-- The decoder, `BUF` and the draws are those the consumed byte leaves, and the receive transport holds it no more. -/
theorem Consumes.next {d : DecoderOut} (hd : consumeByte s b = .ok d) :
    ∃ t, step s = .next t ∧ t.dec = d.dec ∧ t.buf = d.buf ∧ t.draws = d.draws ∧
      t.env.rxQueue = (s.env.rxQueue ++ (currentInput s).rxArrive).tail := by
  obtain ⟨hr, hb, ho⟩ := h
  obtain ⟨u, -, hstep⟩ := step_consume hr hb ho hd
  refine ⟨_, hstep, assemble_dec_of_running hb, rfl, rfl, ?_⟩
  have hoffer : (currentInput s).rxOffer = true := by
    by_contra hno
    simp [rxOffered, hno] at ho
  rw [assemble_env, envAfter_rxQueue, if_pos ⟨(Decoder.busy_iff _).mpr hb, hoffer⟩, rxHeld]

/-- A byte that writes the decoder's own state only. -/
theorem Consumes.next_onlyDec {d : Decoder} (hd : consumeByte s b = .ok (onlyDec s d)) :
    ∃ t, step s = .next t ∧ t.dec = d ∧ t.buf = s.buf ∧ t.draws = s.draws := by
  obtain ⟨t, ht, hdec, hbuf, hdraws, -⟩ := h.next hd
  exact ⟨t, ht, hdec, hbuf, hdraws⟩

end

/-! ### A silent cycle (R456) -/

section
variable {s : State} (h : Silent s)
include h

theorem Silent.next :
    ∃ t, step s = .next t ∧ t.dec = (silentCycle s (currentInput s).tick).dec ∧ t.buf = s.buf := by
  obtain ⟨hr, hb, ho⟩ := h
  obtain ⟨u, -, hstep⟩ := step_silent hr hb ho
  obtain ⟨-, -, -, -, -, -, hbuf, -⟩ := silent_frame s (currentInput s).tick
  exact ⟨_, hstep, assemble_dec_of_running hb, hbuf⟩

/-- The latched timeout has been counted: TIMEOUT, with nothing said of a `READ_RESP`'s response registers (R480, R515). -/
theorem Silent.expires (hexp : s.dec.lTimeout.toNat ≤ s.dec.sc.toNat) :
    ∃ t, step s = .next t ∧ t.buf = s.buf ∧
      t.dec = { s.dec with
        state := .idle, done := true, result := .timeout
        respParam := t.dec.respParam, respCode := t.dec.respCode } ∧
      (s.dec.mode ≠ .resp → t.dec.respParam = s.dec.respParam ∧ t.dec.respCode = s.dec.respCode) := by
  obtain ⟨t, ht, hdec, hbuf⟩ := h.next
  refine ⟨t, ht, hbuf, ?_⟩
  rw [hdec, silentCycle, if_pos (BitVec.le_def.mpr hexp)]
  rcases timeoutRead_cases s with ⟨hmode, e⟩ | ⟨-, e⟩ <;> rw [e]
  · exact ⟨rfl, fun hne => absurd hmode hne⟩
  · exact ⟨rfl, fun _ => ⟨rfl, rfl⟩⟩

/-- Before that, a tick is counted, saturating, and nothing else changes. -/
theorem Silent.counts (hlt : s.dec.sc.toNat < s.dec.lTimeout.toNat) :
    ∃ t, step s = .next t ∧ t.buf = s.buf ∧ t.dec = { s.dec with sc := t.dec.sc } ∧
      t.dec.sc.toNat = if (currentInput s).tick then min (s.dec.sc.toNat + 1) (2 ^ 32 - 1) else s.dec.sc.toNat := by
  obtain ⟨t, ht, hdec, hbuf⟩ := h.next
  refine ⟨t, ht, hbuf, ?_⟩
  rw [hdec]
  rcases silentCycle_cases s (currentInput s).tick with ⟨hle, -⟩ | ⟨-, htick, e⟩ | ⟨-, htick, e⟩
  · exact absurd (BitVec.le_def.mp hle) (Nat.not_le.mpr hlt)
  · rw [e, htick]
    refine ⟨rfl, ?_⟩
    rw [onlyDec_dec, BitVec.toNat_ofNat, if_pos rfl]
    omega
  · rw [e, htick]
    exact ⟨rfl, rfl⟩

end

/-- A running read to which the listed cycle offers nothing is silent. -/
theorem Silent.of_schedule {s : State} {c : CycleIn} {rest : List CycleIn} (hsched : s.env.schedule = c :: rest)
    (hb : s.dec.state ≠ .idle) (hr : c.rst = false) (hoffer : c.rxOffer = false) : Silent s := by
  have hin := currentInput_of_schedule hsched
  exact ⟨by rw [hin, hr], hb, by simp [rxOffered, hin, hoffer]⟩

/-- Over listed silent cycles with a tick each, no more than the timeout leaves, a running read counts them and changes nothing
else. -/
theorem silent_run {s : State} {l rest : List CycleIn} (hsched : s.env.schedule = l ++ rest) (hb : s.dec.state ≠ .idle)
    (hl : ∀ x ∈ l, x.rst = false ∧ x.rxOffer = false ∧ x.tick = true)
    (hfits : s.dec.sc.toNat + l.length ≤ s.dec.lTimeout.toNat) :
    ∃ t, steps l.length s = .next t ∧ t.env.schedule = rest ∧ t.dec = { s.dec with sc := t.dec.sc } ∧
      t.dec.sc.toNat = s.dec.sc.toNat + l.length := by
  induction l generalizing s with
  | nil => exact ⟨s, rfl, hsched, rfl, rfl⟩
  | cons c l ih =>
    obtain ⟨hr, hoffer, htick⟩ := hl c List.mem_cons_self
    rw [List.length_cons] at hfits ⊢
    obtain ⟨u, hu, -, hdec, hsc⟩ := (Silent.of_schedule hsched hb hr hoffer).counts (by omega)
    rw [currentInput_of_schedule hsched, htick, if_pos rfl, Nat.min_eq_left (by omega)] at hsc
    have husched : u.env.schedule = l ++ rest := by rw [step_schedule hu, hsched]; rfl
    have hfits' : u.dec.sc.toNat + l.length ≤ u.dec.lTimeout.toNat := by rw [hsc, hdec]; dsimp only; omega
    obtain ⟨t, ht, htsched, htdec, htsc⟩ :=
      ih husched (by rw [hdec]; exact hb) (fun x hx => hl x (List.mem_cons_of_mem c hx)) hfits'
    refine ⟨t, (steps_succ_of_step _ hu).trans ht, htsched, ?_, by omega⟩
    rw [htdec, hdec]

/-! ### An idle decoder (R455, R481) -/

/-- Only a read command writes the decoder (R500, R550, R551). -/
theorem hostAccess_dec_of_not_read {b : BusIn} {s u : State} (hu : hostAccess b s = .next u) (hresp : decode b ≠ .ok .readResp)
    (hdbuf : decode b ≠ .ok .readDataBuf) (hstream : decode b ≠ .ok .readDataStream) : u.dec = s.dec := by
  rcases hostAccess_cases hu with ⟨i, hi, hx⟩ | ⟨-, rfl⟩
  · rw [exec_dec hx]
    cases i
    case readResp => exact absurd hi hresp
    case readDataBuf => exact absurd hi hdbuf
    case readDataStream => exact absurd hi hstream
    all_goals simp [decoderAfterCommand]
  · rfl

/-- The decoder a host's access leaves to an idle one is idle or in SEEK (R452, R550). -/
theorem hostAccess_dec_state {b : BusIn} {s u : State} (hu : hostAccess b s = .next u) (hidle : s.dec.state = .idle) :
    u.dec.state = .idle ∨ u.dec.state = .seek := by
  have hb := (Decoder.busy_eq_false_iff _).mpr hidle
  rcases hostAccess_cases hu with ⟨i, -, hx⟩ | ⟨-, rfl⟩
  · rw [exec_dec hx]
    cases i <;> simp only [decoderAfterCommand, hb, Bool.false_eq_true, if_false]
    case readResp => exact .inr rfl
    case readDataBuf =>
      split
      · exact .inl hidle
      · exact .inr rfl
    case readDataStream => exact .inr rfl
    all_goals exact .inl hidle
  · exact .inl hidle

end Sys2Proof.Machine

namespace Sys2Proof.Proofs

open Sys2Proof Sys2Proof.Machine

/-- Settles O33: an idle decoder's part of the cycle is empty, and the host's access writes it by a read command only. -/
theorem idleDecoderConsumesNothing : Obligations.IdleDecoderConsumesNothing := by
  unfold Obligations.IdleDecoderConsumesNothing
  intro s t h hr hidle
  have hb : s.dec.busy = false := (Decoder.busy_eq_false_iff _).mpr hidle
  obtain ⟨u, d, hu, hd, rfl⟩ := step_parts_of_not_rst h hr
  rw [decoderCycle_idle hb] at hd
  cases hd
  refine ⟨?_, rfl, rfl, fun hresp hdbuf hstream => ?_⟩
  · rw [assemble_env, envAfter_rxQueue, hb, if_neg (by simp), rxHeld]
  · rw [assemble_dec, hb]
    exact hostAccess_dec_of_not_read hu hresp hdbuf hstream

/-- Settles O34: what SEEK makes of the byte, each way. -/
theorem seekShiftsAndMatchesTheSyncPair : Obligations.SeekShiftsAndMatchesTheSyncPair := by
  unfold Obligations.SeekShiftsAndMatchesTheSyncPair
  intro s b hc hs
  dsimp only
  obtain ⟨t, ht, hdec, hbuf, hdraws⟩ := hc.next_onlyDec (consume_seek b hs)
  rw [seekByte_eq] at hdec
  exact ⟨t, ht, hbuf, hdraws, fun hmatch => hdec.trans (if_pos hmatch), fun hno => hdec.trans (if_neg hno)⟩

/-- Settles O35: the rule of DEVID at `idx` 0. -/
theorem devidKeepsItsFirstByte : Obligations.DevidKeepsItsFirstByte := by
  unfold Obligations.DevidKeepsItsFirstByte
  intro s b hc hs hi
  exact hc.next_onlyDec (consume_devid_first b hs hi)

/-- Settles O36: the rule of DEVID at `idx` 1, no match. -/
theorem devidMismatchResynchronises : Obligations.DevidMismatchResynchronises := by
  unfold Obligations.DevidMismatchResynchronises
  intro s b hc hs hi hne
  exact hc.next_onlyDec (consume_devid_mismatch b hs hi hne)

/-- Settles O37: a length is 0 as a word exactly if it is 0 as a number. -/
theorem devidMatchStartsThePayload : Obligations.DevidMatchStartsThePayload := by
  unfold Obligations.DevidMatchStartsThePayload
  intro s b hc hs hi heq
  have hlen : s.dec.lLen.toNat = 0 ↔ s.dec.lLen = 0 := BitVec.toNat_inj (y := 0)
  simp only [hlen]
  exact hc.next_onlyDec (consume_devid_match b hs hi heq)

/-- Settles O41: the rule of CKSUM at `idx` 0. -/
theorem cksumKeepsItsFirstByte : Obligations.CksumKeepsItsFirstByte := by
  unfold Obligations.CksumKeepsItsFirstByte
  intro s b hc hs hi
  exact hc.next_onlyDec (consume_cksum_first b hs hi)

/-- Settles O42: the rule of CKSUM at `idx` 1, no match, which writes none of the delivered values. -/
theorem cksumMismatchResynchronises : Obligations.CksumMismatchResynchronises := by
  unfold Obligations.CksumMismatchResynchronises
  intro s b hc hs hi hmode hne
  exact hc.next_onlyDec (consume_cksum_mismatch b hs hi hmode hne)

/-- Settles O43: the rule of CKSUM at `idx` 1, accepted. -/
theorem cksumAcceptFinishesOk : Obligations.CksumAcceptFinishesOk := by
  unfold Obligations.CksumAcceptFinishesOk
  intro s b hc hs hi hok
  exact hc.next_onlyDec (consume_cksum_accept b hs hi hok)

/-- Settles O44: the two clauses are a cycle that expires and one that counts. -/
theorem silentCycleCountsOrTimesOut : Obligations.SilentCycleCountsOrTimesOut := by
  unfold Obligations.SilentCycleCountsOrTimesOut
  intro s hs
  rcases Nat.lt_or_ge s.dec.sc.toNat s.dec.lTimeout.toNat with hlt | hexp
  · obtain ⟨t, ht, hbuf, hcounts⟩ := hs.counts hlt
    exact ⟨t, ht, hbuf, fun hle => absurd hlt (Nat.not_lt.mpr hle), fun _ => hcounts⟩
  · obtain ⟨t, ht, hbuf, hexpires⟩ := hs.expires hexp
    exact ⟨t, ht, hbuf, fun _ => hexpires, fun hlt => absurd hlt (Nat.not_lt.mpr hexp)⟩

/-- Settles O45: under the invariant the byte has its outcome, a running read has no result, and the only one it can be given is
OK. -/
theorem consumedByteWinsOverTimeout : Obligations.ConsumedByteWinsOverTimeout := by
  unfold Obligations.ConsumedByteWinsOverTimeout
  intro s b hinv ⟨hr, hb, ho⟩
  obtain ⟨d, hd⟩ := consumeByte_next hinv hb b
  obtain ⟨t, ht, hdec, -, -, hqueue⟩ := Consumes.next ⟨hr, hb, ho⟩ hd
  obtain ⟨-, -, -, -, -, -, hsc, -, hend⟩ := consume_frame hb hd
  refine ⟨t, ht, by rw [hdec, hsc], ?_, hqueue⟩
  rw [hdec]
  rcases hend with ⟨-, -, hresult⟩ | ⟨-, -, -, -, hresult⟩
  · rw [hresult, hinv.dec.result_of_running hb]; decide
  · rw [hresult]; decide

/-- Settles O50: a consumed byte ends a read at a second checksum byte only, silence by expiry only. -/
theorem readEndsOnlyByFinish : Obligations.ReadEndsOnlyByFinish := by
  unfold Obligations.ReadEndsOnlyByFinish
  intro s t h hr hb hend
  obtain ⟨u, d, -, hd, rfl⟩ := step_parts_of_not_rst h hr
  rw [assemble_dec_of_running hb] at hend ⊢
  rcases decoderCycle_cases hd with ⟨hidle, -⟩ | ⟨b, -, hrx, hc⟩ | ⟨-, hrx, rfl⟩
  · exact absurd hidle hb
  · obtain ⟨-, -, -, -, -, -, -, -, hgo | ⟨hs, hi, -, hdone, hresult⟩⟩ := consume_frame hb hc
    · exact absurd hend hgo.1
    · exact ⟨hdone, .inl ⟨hresult, ⟨b, hr, hb, hrx⟩, hs, hi⟩⟩
  · obtain ⟨-, -, -, -, -, -, -, -, hgo | ⟨hexp, -, hdone, hresult⟩, -⟩ := silent_frame s (currentInput s).tick
    · exact absurd (hgo.1.symm.trans hend) hb
    · exact ⟨hdone, .inr ⟨hresult, ⟨hr, hb, hrx⟩, BitVec.le_def.mp hexp⟩⟩

/-- Settles O55: the listed cycles are counted up to the timeout, and the cycle after them expires. -/
theorem silenceTimesOutExactly : Obligations.SilenceTimesOutExactly := by
  unfold Obligations.SilenceTimesOutExactly
  intro s l c rest _ hb hsc hsched hlen hl hr hoffer
  have hstart : s.dec.sc.toNat = 0 := by rw [hsc]; rfl
  obtain ⟨t, ht, htsched, htdec, htsc⟩ := silent_run hsched hb hl (by omega)
  have hcounted : t.dec.sc = s.dec.lTimeout := BitVec.eq_of_toNat_eq (by omega)
  have hstate : t.dec.state = s.dec.state := by rw [htdec]
  have hexp : t.dec.lTimeout.toNat ≤ t.dec.sc.toNat := by rw [hcounted, htdec]
  obtain ⟨u, hu, -, hudec, -⟩ := (Silent.of_schedule htsched (by rwa [hstate]) hr hoffer).expires hexp
  exact ⟨t, u, ht, hstate, hcounted, hu, by rw [hudec], by rw [hudec], by rw [hudec], by rw [hudec, htdec]⟩

end Sys2Proof.Proofs

namespace Sys2Proof.Machine

/-! ### What the running checksum holds (R472, R561) -/

/-- The bytes of a 16-bit value put together from them (R305). -/
theorem byteOf_half (hi lo : Byte) : byteOf (half hi lo) 0 = lo ∧ byteOf (half hi lo) 1 = hi :=
  (half_inj.mp (half_byteOf (half hi lo))).symm

/-- With one more payload byte the recomputed checksum grows by that byte (R303). -/
theorem recomputed_succ (s : State) (n : Nat) : recomputed s (n + 1) = recomputed s n + (storedByte s n).setWidth 16 := by
  rw [recomputed, List.range_succ, List.map_append, ← List.append_assoc]
  exact sum16_append_singleton _ _

/-- The recomputed checksum reads the latched values and the payload bytes below `n`. -/
theorem recomputed_congr {s t : State} {n : Nat} (hs1 : t.dec.lS1 = s.dec.lS1) (hs2 : t.dec.lS2 = s.dec.lS2)
    (hdevid : t.dec.lDevid = s.dec.lDevid) (hstored : ∀ i < n, storedByte t i = storedByte s i) :
    recomputed t n = recomputed s n := by
  have hmap : (List.range n).map (storedByte t) = (List.range n).map (storedByte s) :=
    List.map_congr_left fun i hi => hstored i (List.mem_range.mp hi)
  rw [recomputed, recomputed, hs1, hs2, hdevid, hmap]

/-- A payload byte is read where the payload rule stores it. -/
theorem storedByte_congr {s t : State} (hmode : t.dec.mode = s.dec.mode) (hparam : t.dec.respParam = s.dec.respParam)
    (hcode : t.dec.respCode = s.dec.respCode) (hbuf : t.buf = s.buf) (hparams : t.params = s.params) (i : Nat) :
    storedByte t i = storedByte s i := by
  rw [storedByte, storedByte, hmode, hparam, hcode, bufByte_congr hbuf hparams]

/-- Without a payload the recomputed checksum is the header's: the sync pair's and the two device-ID bytes'. -/
theorem recomputed_zero {s : State} {hi lo : Byte} (hdevid : half hi lo = s.dec.lDevid) :
    recomputed s 0 = sum16 [s.dec.lS1, s.dec.lS2] + lo.setWidth 16 + hi.setWidth 16 := by
  obtain ⟨hlo, hhi⟩ := byteOf_half hi lo
  rw [recomputed, ← hdevid, hlo, hhi]
  rfl

/-- A payload byte's part of the cycle common to every mode (R468). -/
theorem consumeByte_payload {s : State} {b : Byte} {d : DecoderOut} (hs : s.dec.state = .payload)
    (hc : consumeByte s b = .ok d) :
    ∃ param code, d.dec = { afterPayload s.dec b with respParam := param, respCode := code } := by
  rcases consumeByte_cases (by simp [hs]) hc with ⟨h, -⟩ | ⟨h, -⟩ | ⟨h, -⟩ | ⟨h, -⟩ | ⟨-, -, -, rfl⟩ | ⟨-, -, -, -, rfl⟩ |
    ⟨-, -, -, rfl⟩ | ⟨-, -, rfl⟩ | ⟨h, -⟩ | ⟨h, -⟩ | ⟨h, -⟩
  iterate 4 exact absurd (hs.symm.trans h) (by decide)
  iterate 4 exact ⟨_, _, rfl⟩
  iterate 3 exact absurd (hs.symm.trans h) (by decide)

/-- Outside streaming mode a consumed payload byte is stored at `idx`, every earlier one kept (R510, R560). -/
theorem storedByte_after_payload {s t : State} {b : Byte} {d : DecoderOut} (hs : s.dec.state = .payload)
    (hmode : s.dec.mode ≠ .dstream) (hc : consumeByte s b = .ok d) (hdec : t.dec = d.dec) (hbuf : t.buf = d.buf)
    (hparams : t.params = s.params) {i : Nat} (hi : i ≤ s.dec.idx.toNat) :
    storedByte t i = if i = s.dec.idx.toNat then b else storedByte s i := by
  rcases consumeByte_cases (by simp [hs]) hc with ⟨h, -⟩ | ⟨h, -⟩ | ⟨h, -⟩ | ⟨h, -⟩ | ⟨-, hm, h3, rfl⟩ | ⟨-, hm, h3, h5, rfl⟩ |
    ⟨-, hm, hcap, rfl⟩ | ⟨-, hm, -⟩ | ⟨h, -⟩ | ⟨h, -⟩ | ⟨h, -⟩
  iterate 4 exact absurd (hs.symm.trans h) (by decide)
  · have hi3 : i ≤ 3 := by omega
    simp only [storedByte, hdec, onlyDec_dec, afterPayload, hm, hi3, if_true]
    exact byteOf_setByte _ _ _ _ (by omega) (by omega)
  · have ht : t.dec.mode = .resp := by rw [hdec]; exact hm
    rw [storedByte, storedByte, if_pos ht, if_pos hm, hdec]
    by_cases hi3 : i ≤ 3
    · rw [if_pos hi3, if_pos hi3, if_neg (by omega)]
      rfl
    · rw [if_neg hi3, if_neg hi3]
      have hsame : i - 4 = s.dec.idx.toNat - 4 ↔ i = s.dec.idx.toNat := by omega
      simp only [← hsame]
      exact byteOf_setByte _ _ _ _ (by omega) (by omega)
  · have ht : t.dec.mode = .dbuf := by rw [hdec]; exact hm
    have hne : DecMode.dbuf ≠ .resp := by decide
    rw [storedByte, storedByte, ht, hm, if_neg hne, if_neg hne]
    exact bufByte_store hbuf hparams hcap i
  · exact absurd hm hmode
  iterate 3 exact absurd (hs.symm.trans h) (by decide)

namespace State.AccExact

/-- An idle decoder and one in SEEK claim nothing of `acc`. -/
theorem of_idle_or_seek {t : State} (h : t.dec.state = .idle ∨ t.dec.state = .seek) : t.AccExact := by
  constructor <;> intro hs <;> simp [hs] at h

variable {s t : State} (h : s.AccExact)
include h

/-- Where the silence counter, the kept byte and `idx` outside PAYLOAD are all that changed, `acc` stays exact. -/
theorem of_frame {sc : Word} {tmp : Byte} {idx : Word} (hdec : t.dec = { s.dec with sc := sc, tmp := tmp, idx := idx })
    (hidx : s.dec.state = .payload → idx = s.dec.idx) (hbuf : t.buf = s.buf) (hparams : t.params = s.params) :
    t.AccExact := by
  have hsame (n : Nat) : recomputed t n = recomputed s n :=
    recomputed_congr (by rw [hdec]) (by rw [hdec]) (by rw [hdec]) fun i _ =>
      storedByte_congr (by rw [hdec]) (by rw [hdec]) (by rw [hdec]) hbuf hparams i
  constructor <;> simp only [hsame, hdec]
  · exact h.devid
  · intro hs hm
    rw [hidx hs]
    exact h.payload hs hm
  · exact h.cksum

/-- The accepted device ID's bytes enter `acc`, and no payload byte is stored yet (R467). -/
theorem after_devid {b : Byte} (hs : s.dec.state = .devid) (hmatch : half b s.dec.tmp = s.dec.lDevid)
    (hdec : t.dec = { s.dec with
      sc := 0, acc := s.dec.acc + s.dec.tmp.setWidth 16 + b.setWidth 16, idx := 0, count := 0
      state := if s.dec.lLen = 0 then .cksum else .payload }) : t.AccExact := by
  have hacc : t.dec.acc = recomputed t 0 := by
    rw [recomputed_zero (s := t) (hi := b) (lo := s.dec.tmp) (by rw [hdec]; exact hmatch)]
    simp only [hdec, h.devid hs]
  have hstate : t.dec.state = if s.dec.lLen = 0 then .cksum else .payload := by rw [hdec]
  have hidx : t.dec.idx = 0 := by rw [hdec]
  have hlen : t.dec.lLen = s.dec.lLen := by rw [hdec]
  constructor <;> intro ht
  · rw [ht] at hstate; split at hstate <;> cases hstate
  · rw [hidx]; exact fun _ => hacc
  · have hzero : s.dec.lLen = 0 := by
      by_contra hne
      rw [ht, if_neg hne] at hstate
      cases hstate
    rw [hlen, hzero]
    exact fun _ => hacc

/-- A payload byte enters `acc` as it is stored (R468). -/
theorem after_payload {b : Byte} {d : DecoderOut} (hinv : s.Inv) (hs : s.dec.state = .payload)
    (hc : consumeByte s b = .ok d) (hdec : t.dec = d.dec) (hbuf : t.buf = d.buf) (hparams : t.params = s.params) :
    t.AccExact := by
  obtain ⟨param, code, hd⟩ := consumeByte_payload hs hc
  rw [hd] at hdec
  have hlt := (hinv.dec.payload_idx hs).1
  have hnext : (s.dec.idx + 1).toNat = s.dec.idx.toNat + 1 := by bv_omega
  have hmode : t.dec.mode = s.dec.mode := by rw [hdec]; rfl
  have hacc (hm : s.dec.mode ≠ .dstream) : t.dec.acc = recomputed t (s.dec.idx.toNat + 1) := by
    have hstored {i : Nat} (hi : i ≤ s.dec.idx.toNat) : storedByte t i = if i = s.dec.idx.toNat then b else storedByte s i :=
      storedByte_after_payload hs hm hc (hdec.trans hd.symm) hbuf hparams hi
    have hbefore : recomputed t s.dec.idx.toNat = recomputed s s.dec.idx.toNat :=
      recomputed_congr (by rw [hdec]; rfl) (by rw [hdec]; rfl) (by rw [hdec]; rfl) fun i hi =>
        (hstored hi.le).trans (if_neg hi.ne)
    rw [recomputed_succ, hstored le_rfl, if_pos rfl, hbefore, ← h.payload hs hm, hdec]
    rfl
  have hstate : t.dec.state = if s.dec.idx + 1 = s.dec.lLen then .cksum else .payload := by rw [hdec]; rfl
  have hidx : t.dec.idx = if s.dec.idx + 1 = s.dec.lLen then 0 else s.dec.idx + 1 := by rw [hdec]; rfl
  have hlen : t.dec.lLen = s.dec.lLen := by rw [hdec]; rfl
  rw [← hmode, ← hnext] at hacc
  by_cases hlast : s.dec.idx + 1 = s.dec.lLen
  · rw [if_pos hlast] at hstate
    constructor <;> intro ht
    · exact absurd (hstate.symm.trans ht) (by decide)
    · exact absurd (hstate.symm.trans ht) (by decide)
    · rw [hlen, ← hlast]; exact hacc
  · rw [if_neg hlast] at hstate hidx
    constructor <;> intro ht
    · exact absurd (hstate.symm.trans ht) (by decide)
    · rw [hidx]; exact hacc
    · exact absurd (hstate.symm.trans ht) (by decide)

end State.AccExact

/-- A match in SEEK starts `acc` with the sync pair's sum; without one SEEK goes on (R460). -/
theorem accExact_after_seek {d : Decoder} {b : Byte} {t : State} (hs : d.state = .seek) (hdec : t.dec = seekByte d b) :
    t.AccExact := by
  rw [seekByte_eq] at hdec
  split at hdec
  · constructor <;> simp [hdec, sum16]
  · exact .of_idle_or_seek (.inr (by rw [hdec]; exact hs))

/-- A consumed byte keeps `acc` exact. -/
theorem accExact_after_consume {s t : State} {b : Byte} {d : DecoderOut} (hinv : s.Inv) (h : s.AccExact)
    (hb : s.dec.state ≠ .idle) (hc : consumeByte s b = .ok d) (hdec : t.dec = d.dec) (hbuf : t.buf = d.buf)
    (hparams : t.params = s.params) : t.AccExact := by
  by_cases hpay : s.dec.state = .payload
  · exact h.after_payload hinv hpay hc hdec hbuf hparams
  rcases consumeByte_cases hb hc with ⟨hs, rfl⟩ | ⟨-, -, rfl⟩ | ⟨-, -, -, rfl⟩ | ⟨hs, -, hmatch, rfl⟩ | ⟨hs, -⟩ | ⟨hs, -⟩ |
    ⟨hs, -⟩ | ⟨hs, -⟩ | ⟨-, -, rfl⟩ | ⟨-, -, -, -, rfl⟩ | ⟨-, -, -, rfl⟩
  · exact accExact_after_seek (d := { s.dec with sc := 0 }) hs hdec
  · exact h.of_frame hdec (fun hs => absurd hs hpay) hbuf hparams
  · exact .of_idle_or_seek (.inr (by rw [hdec]; rfl))
  · exact h.after_devid hs hmatch hdec
  iterate 4 exact absurd hs hpay
  · exact h.of_frame hdec (fun hs => absurd hs hpay) hbuf hparams
  · exact .of_idle_or_seek (.inr (by rw [hdec]; rfl))
  · exact .of_idle_or_seek (.inl (by rw [hdec]; rfl))

/-- A silent cycle keeps `acc` exact: it counts, or it ends the read. -/
theorem accExact_after_silence {s t : State} {tick : Bool} (h : s.AccExact) (hdec : t.dec = (silentCycle s tick).dec)
    (hbuf : t.buf = s.buf) (hparams : t.params = s.params) : t.AccExact := by
  rcases silentCycle_cases s tick with ⟨-, e⟩ | ⟨-, -, e⟩ | ⟨-, -, e⟩ <;> rw [e] at hdec
  · rcases timeoutRead_cases s with ⟨-, e⟩ | ⟨-, e⟩ <;> exact .of_idle_or_seek (.inl (by rw [hdec, e]; rfl))
  · exact h.of_frame hdec (fun _ => rfl) hbuf hparams
  · exact h.of_frame hdec (fun _ => rfl) hbuf hparams

end Sys2Proof.Machine

namespace Sys2Proof.Proofs

open Sys2Proof Sys2Proof.Machine

/-- Settles O52: reset and the host's access leave a decoder that claims nothing of `acc`; a running read consumes a byte, which
enters `acc` as it is stored, or is silent. -/
theorem runningChecksumIsTheRecomputedOne : Obligations.RunningChecksumIsTheRecomputedOne := by
  unfold Obligations.RunningChecksumIsTheRecomputedOne
  intro s t hinv hacc h
  have hparams := step_params h
  rcases step_cases h with ⟨-, rfl⟩ | ⟨-, u, d, hu, hd, rfl⟩
  · exact .of_idle_or_seek (.inl rfl)
  · rcases decoderCycle_cases hd with ⟨hidle, -⟩ | ⟨b, hb, -, hc⟩ | ⟨hb, -, rfl⟩
    · apply State.AccExact.of_idle_or_seek
      rw [assemble_dec, (Decoder.busy_eq_false_iff _).mpr hidle]
      exact hostAccess_dec_state hu hidle
    · exact accExact_after_consume hinv hacc hb hc (assemble_dec_of_running hb) rfl hparams
    · obtain ⟨-, -, -, -, -, -, hbuf, -⟩ := silent_frame s (currentInput s).tick
      exact accExact_after_silence hacc (assemble_dec_of_running hb) hbuf hparams

end Sys2Proof.Proofs

namespace Sys2Proof.Machine

/-! ### How far a read is from its end (R482, R487) -/

/-- The fewest consumed bytes after which the read can have ended: what is left of the frame at hand. -/
def Decoder.bytesToEnd (d : Decoder) : Nat :=
  match d.state with
  | .idle => 0
  | .seek => d.lLen.toNat + if d.srFill = 0 then 6 else 5
  | .devid => d.lLen.toNat + 4 - d.idx.toNat
  | .payload => d.lLen.toNat + 2 - d.idx.toNat
  | .cksum => 2 - d.idx.toNat

theorem Decoder.running_of_bytesToEnd_pos {d : Decoder} (h : 0 < d.bytesToEnd) : d.state ≠ .idle := by
  intro hidle
  simp [Decoder.bytesToEnd, hidle] at h

/-- A byte shifted in by SEEK brings the end nearer by one at most (R460). -/
theorem bytesToEnd_le_seekByte {d : Decoder} (hs : d.state = .seek) (b : Byte) :
    d.bytesToEnd ≤ (seekByte d b).bytesToEnd + 1 := by
  have hfill : BitVec.ofNat 2 (min (d.srFill.toNat + 1) 2) ≠ 0 := by
    intro hz
    have hzero : min (d.srFill.toNat + 1) 2 % 2 ^ 2 = 0 := congrArg BitVec.toNat hz
    omega
  rw [seekByte_eq]
  split
  · next hmatch =>
    have hheld : d.srFill ≠ 0 := by rintro hz; simp [hz] at hmatch
    simp only [Decoder.bytesToEnd, hs, hheld, if_false]
    exact Nat.le_refl _
  · simp only [Decoder.bytesToEnd, hs, hfill, if_false]
    split <;> omega

/-- A payload byte brings the end nearer by one (R468). -/
theorem bytesToEnd_le_afterPayload {d : Decoder} (hs : d.state = .payload) (b : Byte) :
    d.bytesToEnd ≤ (afterPayload d b).bytesToEnd + 1 := by
  by_cases hlast : d.idx + 1 = d.lLen
  · simp only [Decoder.bytesToEnd, afterPayload, hs, hlast, if_true]
    bv_omega
  · simp only [Decoder.bytesToEnd, afterPayload, hs, hlast, if_false]
    bv_omega

/-- Every consumed byte brings the end nearer by one at most. -/
theorem bytesToEnd_le_consume {s : State} {b : Byte} {d : DecoderOut} (hb : s.dec.state ≠ .idle)
    (hc : consumeByte s b = .ok d) : s.dec.bytesToEnd ≤ d.dec.bytesToEnd + 1 := by
  by_cases hpay : s.dec.state = .payload
  · obtain ⟨param, code, hd⟩ := consumeByte_payload hpay hc
    rw [hd]
    exact bytesToEnd_le_afterPayload hpay b
  rcases consumeByte_cases hb hc with ⟨hs, rfl⟩ | ⟨hs, hi, rfl⟩ | ⟨hs, hi, -, rfl⟩ | ⟨hs, hi, -, rfl⟩ | ⟨hs, -⟩ | ⟨hs, -⟩ |
    ⟨hs, -⟩ | ⟨hs, -⟩ | ⟨hs, hi, rfl⟩ | ⟨hs, hi, -, -, rfl⟩ | ⟨hs, hi, -, rfl⟩
  · exact bytesToEnd_le_seekByte (d := { s.dec with sc := 0 }) hs b
  pick_goal 3
  · by_cases hlen : s.dec.lLen = 0 <;> simp only [Decoder.bytesToEnd, onlyDec_dec, hs, hi, hlen, if_true, if_false] <;> bv_omega
  iterate 4 (pick_goal 3; exact absurd hs hpay)
  all_goals simp only [Decoder.bytesToEnd, onlyDec_dec, hs, hi, if_true]; bv_omega

/-! ### A read decided by the bytes on offer (R485, R487) -/

/-- After `n` cycles the read of `s` has ended with OK, every payload byte counted, if it accepts, and is still running if not. -/
def DecidedAfter (n : Nat) (s : State) (accepts : Prop) : Prop :=
  ∃ t, steps n s = .next t ∧
    (accepts → t.dec.state = .idle ∧ t.dec.done = true ∧ t.dec.result = .ok ∧ t.dec.count = s.dec.lLen) ∧
    (¬ accepts → t.dec.state ≠ .idle ∧ t.dec.done = false)

theorem DecidedAfter.congr {n : Nat} {s : State} {p q : Prop} (h : DecidedAfter n s p) (hpq : p ↔ q) : DecidedAfter n s q :=
  propext hpq ▸ h

theorem decidedAfter_zero_of_ok {s : State} (hinv : s.Inv) (hidle : s.dec.state = .idle) (hok : s.dec.result = .ok) :
    DecidedAfter 0 s True :=
  ⟨s, rfl, fun _ => ⟨hidle, hinv.dec.done_iff.mpr (by simp [hok]), hok, hinv.dec.ok_count hok⟩, fun h => absurd trivial h⟩

section
variable {s : State} {f : List Byte} (hinv : s.Inv)
include hinv

/-- A read with bytes on offer is decided as it is after the first of them. -/
theorem decidedAfter_cons {b : Byte} {d : DecoderOut} {accepts : Prop} (hb : s.dec.state ≠ .idle)
    (hoff : FrameOffered s (b :: f)) (hc : consumeByte s b = .ok d)
    (hrest : ∀ t : State, t.Inv → t.dec = d.dec → FrameOffered t f → DecidedAfter f.length t accepts) :
    DecidedAfter (b :: f).length s accepts := by
  obtain ⟨t, ht, hdec, -⟩ := (hoff.consumes hb).next hc
  obtain ⟨-, -, -, -, -, hlen, -⟩ := consume_frame hb hc
  obtain ⟨v, hv, hyes, hno⟩ := hrest t (step_keeps_inv hinv ht) hdec (hoff.tail hb ht)
  rw [hdec, hlen] at hyes
  exact ⟨v, (steps_succ_of_step _ ht).trans hv, hyes, hno⟩

/-- With fewer bytes on offer than the read needs, it is still running after them. -/
theorem decidedAfter_short (hshort : f.length < s.dec.bytesToEnd) (hoff : FrameOffered s f) :
    DecidedAfter f.length s False := by
  induction f generalizing s with
  | nil =>
    have hb := Decoder.running_of_bytesToEnd_pos hshort
    exact ⟨s, rfl, False.elim, fun _ => ⟨hb, hinv.dec.busy_not_done hb⟩⟩
  | cons b f ih =>
    have hb := Decoder.running_of_bytesToEnd_pos (Nat.zero_lt_of_lt hshort)
    obtain ⟨d, hd⟩ := consumeByte_next hinv hb b
    have hnear := bytesToEnd_le_consume hb hd
    rw [List.length_cons] at hshort
    refine decidedAfter_cons hinv hb hoff hd fun t htinv hdec htoff => ih htinv ?_ htoff
    rw [hdec]
    omega

end

/-- The running checksum after more bytes (R303). -/
def addBytes (acc : Half) (bs : List Byte) : Half := bs.foldl (fun acc b => acc + b.setWidth 16) acc

@[simp] theorem addBytes_nil (acc : Half) : addBytes acc [] = acc := rfl

@[simp] theorem addBytes_cons (acc : Half) (b : Byte) (bs : List Byte) :
    addBytes acc (b :: bs) = addBytes (acc + b.setWidth 16) bs := rfl

theorem sum16_cons_cons (b₁ b₂ : Byte) (bs : List Byte) :
    sum16 (b₁ :: b₂ :: bs) = addBytes (b₁.setWidth 16 + b₂.setWidth 16) bs := by
  simp [sum16, addBytes]

section
variable {s : State} {d : Decoder} (hinv : s.Inv) (hdec : s.dec = d)
include hinv hdec

/-- In CKSUM the second byte decides, in streaming mode whatever it is (R471, R472, R572). -/
theorem decidedAfter_cksum_second {c₁ : Byte} (hs : d.state = .cksum) (hi : d.idx = 1) (hoff : FrameOffered s [c₁]) :
    DecidedAfter 1 s (d.mode = .dstream ∨ half c₁ d.tmp = d.acc) := by
  subst hdec
  have hb : s.dec.state ≠ .idle := by simp [hs]
  by_cases hok : s.dec.mode = .dstream ∨ half c₁ s.dec.tmp = s.dec.acc
  · exact (decidedAfter_cons (accepts := True) hinv hb hoff (consume_cksum_accept c₁ hs hi hok.symm) fun t htinv htdec _ =>
      decidedAfter_zero_of_ok htinv (by rw [htdec]; rfl) (by rw [htdec]; rfl)).congr (iff_of_true trivial hok)
  · obtain ⟨hmode, hne⟩ := not_or.mp hok
    exact (decidedAfter_cons (accepts := False) hinv hb hoff (consume_cksum_mismatch c₁ hs hi hmode hne)
      fun t htinv htdec htoff => decidedAfter_short htinv (by simp [htdec, Decoder.bytesToEnd]) htoff).congr
      (iff_of_false id hok)

/-- In CKSUM the two checksum bytes decide (R470). -/
theorem decidedAfter_cksum {c₀ c₁ : Byte} (hs : d.state = .cksum) (hi : d.idx = 0) (hoff : FrameOffered s [c₀, c₁]) :
    DecidedAfter 2 s (d.mode = .dstream ∨ half c₁ c₀ = d.acc) := by
  subst hdec
  exact decidedAfter_cons hinv (by simp [hs]) hoff (consume_cksum_first c₀ hs hi) fun t htinv htdec htoff =>
    decidedAfter_cksum_second htinv htdec hs rfl htoff

/-- In PAYLOAD the rest of the payload enters the checksum, and the two bytes after it decide (R468). -/
theorem decidedAfter_payload {p : List Byte} {c₀ c₁ : Byte} (hs : d.state = .payload)
    (hlen : d.idx.toNat + p.length = d.lLen.toNat) (hoff : FrameOffered s (p ++ [c₀, c₁])) :
    DecidedAfter (p ++ [c₀, c₁]).length s (d.mode = .dstream ∨ half c₁ c₀ = addBytes d.acc p) := by
  induction p generalizing s d with
  | nil =>
    subst hdec
    have hlt := (hinv.dec.payload_idx hs).1
    rw [List.length_nil] at hlen
    omega
  | cons b p ih =>
    subst hdec
    have hb : s.dec.state ≠ .idle := by simp [hs]
    obtain ⟨o, ho⟩ := consumeByte_next hinv hb b
    obtain ⟨param, code, hdec⟩ := consumeByte_payload hs ho
    rw [List.length_cons] at hlen
    refine decidedAfter_cons hinv hb hoff ho fun t htinv htdec htoff => ?_
    replace htdec := htdec.trans hdec
    by_cases hlast : s.dec.idx + 1 = s.dec.lLen
    · have hnil : p = [] := List.length_eq_zero_iff.mp (by bv_omega)
      subst hnil
      exact decidedAfter_cksum htinv htdec (if_pos hlast) (if_pos hlast) htoff
    · have hidx : (afterPayload s.dec b).idx = s.dec.idx + 1 := if_neg hlast
      exact ih htinv htdec (if_neg hlast) (by rw [hidx]; change _ = s.dec.lLen.toNat; bv_omega) htoff

/-- In DEVID the second byte decides whether the device ID is the latched one (R466, R467). -/
theorem decidedAfter_devid_second {i₁ c₀ c₁ : Byte} {p : List Byte} (hs : d.state = .devid) (hi : d.idx = 1)
    (hlen : p.length = d.lLen.toNat) (hoff : FrameOffered s (i₁ :: (p ++ [c₀, c₁]))) :
    DecidedAfter (i₁ :: (p ++ [c₀, c₁])).length s
      (half i₁ d.tmp = d.lDevid ∧ (d.mode = .dstream ∨ half c₁ c₀ = addBytes d.acc (d.tmp :: i₁ :: p))) := by
  subst hdec
  have hb : s.dec.state ≠ .idle := by simp [hs]
  by_cases hmatch : half i₁ s.dec.tmp = s.dec.lDevid
  · refine (decidedAfter_cons hinv hb hoff (consume_devid_match i₁ hs hi hmatch) fun t htinv htdec htoff => ?_).congr
      (and_iff_right hmatch).symm
    by_cases hzero : s.dec.lLen = 0
    · have hnil : p = [] := List.length_eq_zero_iff.mp (by rw [hlen, hzero]; rfl)
      subst hnil
      exact decidedAfter_cksum htinv htdec (if_pos hzero) rfl htoff
    · exact decidedAfter_payload htinv htdec (if_neg hzero) ((Nat.zero_add _).trans hlen) htoff
  · exact (decidedAfter_cons (accepts := False) hinv hb hoff (consume_devid_mismatch i₁ hs hi hmatch)
      fun t htinv htdec htoff => decidedAfter_short htinv (by simp [htdec, Decoder.bytesToEnd, hlen]) htoff).congr
      (iff_of_false id fun h => hmatch h.1)

/-- In DEVID the two device-ID bytes decide first (R465). -/
theorem decidedAfter_devid {i₀ i₁ c₀ c₁ : Byte} {p : List Byte} (hs : d.state = .devid) (hi : d.idx = 0)
    (hlen : p.length = d.lLen.toNat) (hoff : FrameOffered s (i₀ :: i₁ :: (p ++ [c₀, c₁]))) :
    DecidedAfter (i₀ :: i₁ :: (p ++ [c₀, c₁])).length s
      (half i₁ i₀ = d.lDevid ∧ (d.mode = .dstream ∨ half c₁ c₀ = addBytes d.acc (i₀ :: i₁ :: p))) := by
  subst hdec
  exact decidedAfter_cons hinv (by simp [hs]) hoff (consume_devid_first i₀ hs hi) fun t htinv htdec htoff =>
    decidedAfter_devid_second htinv htdec hs rfl hlen htoff

/-- In SEEK with one byte held, that byte and the next decide whether the frame's header follows (R460). -/
theorem decidedAfter_seek_second {y₂ i₀ i₁ c₀ c₁ : Byte} {p : List Byte} (hs : d.state = .seek) (hfill : d.srFill = 1)
    (hlen : p.length = d.lLen.toNat) (hoff : FrameOffered s (y₂ :: i₀ :: i₁ :: (p ++ [c₀, c₁]))) :
    DecidedAfter (y₂ :: i₀ :: i₁ :: (p ++ [c₀, c₁])).length s
      (((d.sr.extractLsb' 0 8 : Byte) = d.lS1 ∧ y₂ = d.lS2) ∧ half i₁ i₀ = d.lDevid ∧
        (d.mode = .dstream ∨ half c₁ c₀ = sum16 (d.lS1 :: d.lS2 :: i₀ :: i₁ :: p))) := by
  subst hdec
  refine decidedAfter_cons hinv (by simp [hs]) hoff (consume_seek y₂ hs) fun t htinv htdec htoff => ?_
  rw [onlyDec_dec, seekByte_eq] at htdec
  simp only [hfill] at htdec
  by_cases hmatch : (s.dec.sr.extractLsb' 0 8 : Byte) = s.dec.lS1 ∧ y₂ = s.dec.lS2
  · rw [if_pos ⟨rfl, hmatch⟩] at htdec
    rw [sum16_cons_cons]
    exact (decidedAfter_devid htinv htdec rfl rfl hlen htoff).congr (and_iff_right hmatch).symm
  · rw [if_neg fun h => hmatch h.2] at htdec
    exact (decidedAfter_short htinv (by simp [htdec, Decoder.bytesToEnd, hs, hlen]) htoff).congr
      (iff_of_false id fun h => hmatch h.1)

/-- From a cleared shift register the two sync bytes decide first (R460, R486). -/
theorem decidedAfter_seek {y₁ y₂ i₀ i₁ c₀ c₁ : Byte} {p : List Byte} (hs : d.state = .seek) (hfill : d.srFill = 0)
    (hlen : p.length = d.lLen.toNat) (hoff : FrameOffered s (y₁ :: y₂ :: i₀ :: i₁ :: (p ++ [c₀, c₁]))) :
    DecidedAfter (y₁ :: y₂ :: i₀ :: i₁ :: (p ++ [c₀, c₁])).length s
      ((y₁ = d.lS1 ∧ y₂ = d.lS2) ∧ half i₁ i₀ = d.lDevid ∧
        (d.mode = .dstream ∨ half c₁ c₀ = sum16 (d.lS1 :: d.lS2 :: i₀ :: i₁ :: p))) := by
  subst hdec
  refine decidedAfter_cons hinv (by simp [hs]) hoff (consume_seek y₁ hs) fun t htinv htdec htoff => ?_
  rw [onlyDec_dec, seekByte_eq, if_neg (by simp [hfill])] at htdec
  have holder (older : Byte) : ((older ++ y₁ : Half).extractLsb' 0 8 : Byte) = y₁ := (byteOf_half older y₁).1
  have h := decidedAfter_seek_second htinv htdec hs (by simp [hfill]) hlen htoff
  simpa only [holder] using h

end

/-! ### Valid frames (R301 to R303, R485) -/

/-- The parts of a list of a frame's length: the sync pair, the device ID, the payload, the checksum (R301, R302). -/
theorem exists_frame_parts {f : List Byte} {n : Nat} (h : f.length = n + 6) :
    ∃ y₁ y₂ i₀ i₁ p c₀ c₁, f = y₁ :: y₂ :: i₀ :: i₁ :: (p ++ [c₀, c₁]) ∧ p.length = n := by
  match f, h with
  | y₁ :: y₂ :: i₀ :: i₁ :: r, h =>
    have hr : r.length = n + 2 := by simpa using h
    obtain ⟨c₀, c₁, hck⟩ := List.length_eq_two.mp (show (r.drop n).length = 2 by simp [hr])
    refine ⟨y₁, y₂, i₀, i₁, r.take n, c₀, c₁, ?_, by simp [hr]⟩
    rw [← hck, List.take_append_drop]

/-- When a frame given by its parts is valid. -/
theorem frameValid_iff {d : Decoder} {y₁ y₂ i₀ i₁ c₀ c₁ : Byte} {p : List Byte} (hlen : p.length = d.lLen.toNat) :
    frameValid d (y₁ :: y₂ :: i₀ :: i₁ :: (p ++ [c₀, c₁])) ↔
      (y₁ = d.lS1 ∧ y₂ = d.lS2) ∧ half i₁ i₀ = d.lDevid ∧
        (d.mode = .dstream ∨ half c₁ c₀ = sum16 (d.lS1 :: d.lS2 :: i₀ :: i₁ :: p)) := by
  simp +contextual [frameValid, ← hlen, half]

/-- A frame's length of bytes on offer to a cleared shift register decides the read: they are a valid frame or not (R487). -/
theorem decidedAfter_frame {s : State} {f : List Byte} (hinv : s.Inv) (hs : s.dec.state = .seek) (hfill : s.dec.srFill = 0)
    (hlen : f.length = s.dec.lLen.toNat + 6) (hoff : FrameOffered s f) :
    DecidedAfter f.length s (frameValid s.dec f) := by
  obtain ⟨y₁, y₂, i₀, i₁, p, c₀, c₁, rfl, hp⟩ := exists_frame_parts hlen
  exact (decidedAfter_seek hinv rfl hs hfill hp hoff).congr (frameValid_iff hp).symm

/-- One byte changed changes the checksum: the sums differ by less than 256 (R303, R485). -/
theorem sum16_set_ne {bs : List Byte} {j : Nat} {v : Byte} (hj : j < bs.length) (hv : v ≠ bs[j]) :
    sum16 (bs.set j v) ≠ sum16 bs := by
  intro h
  have hne : v.toNat ≠ bs[j].toNat := fun e => hv (BitVec.eq_of_toNat_eq e)
  have hsum := congrArg BitVec.toNat h
  rw [sum16_toNat, sum16_toNat, List.set_eq_take_append_cons_drop, if_pos hj] at hsum
  have hparts : bs = bs.take j ++ bs[j] :: bs.drop (j + 1) := by simp
  rw [congrArg (fun l : List Byte => (l.map BitVec.toNat).sum) hparts] at hsum
  simp only [List.map_append, List.map_cons, List.sum_append, List.sum_cons] at hsum
  have hvlt := v.isLt
  have hblt := bs[j].isLt
  omega

/-- A mode that verifies the checksum accepts no two frames that differ in one byte before it (R485). -/
theorem not_frameValid_set {d : Decoder} {f : List Byte} {j : Nat} {v : Byte} (hmode : d.mode ≠ .dstream)
    (h : frameValid d f) (hj : j < d.lLen.toNat + 4) (hv : v ≠ f.getD j 0) : ¬ frameValid d (f.set j v) := by
  rintro ⟨-, -, -, hck'⟩
  obtain ⟨hlen, -, -, hck⟩ := h
  replace hck := hck.resolve_left hmode
  replace hck' := hck'.resolve_left hmode
  have hget (k : Nat) : (f.set j v).getD (d.lLen.toNat + 4 + k) 0 = f.getD (d.lLen.toNat + 4 + k) 0 := by
    simp only [List.getD_eq_getElem?_getD]
    rw [List.getElem?_set_ne (by omega)]
  have h4 := hget 0
  have h5 := hget 1
  rw [Nat.add_zero] at h4
  rw [h4, h5, hck, List.take_set] at hck'
  have hj' : j < (f.take (d.lLen.toNat + 4)).length := by rw [List.length_take]; omega
  refine sum16_set_ne hj' ?_ hck'.symm
  rw [List.getElem_take]
  rwa [List.getD_eq_getElem _ _ (by omega)] at hv

end Sys2Proof.Machine

namespace Sys2Proof.Proofs

open Sys2Proof Sys2Proof.Machine

/-- Settles O56: the read is decided by the bytes, part by part; after a mismatch too few of them are left. -/
theorem frameAcceptedExactlyWhenValid : Obligations.FrameAcceptedExactlyWhenValid := by
  unfold Obligations.FrameAcceptedExactlyWhenValid
  intro s f hinv hs hfill hlen hoff
  obtain ⟨t, ht, hyes, hno⟩ := decidedAfter_frame hinv hs hfill hlen hoff
  refine ⟨t, ht, ⟨fun hidle => ?_, fun hvalid => (hyes hvalid).1⟩, fun hvalid => (hyes hvalid).2⟩
  by_contra hinvalid
  exact (hno hinvalid).1 hidle

/-- Settles O60: the changed frame has the length of a frame and is not valid, so the read is still running. -/
theorem singleCorruptedByteIsRejected : Obligations.SingleCorruptedByteIsRejected := by
  unfold Obligations.SingleCorruptedByteIsRejected
  intro s f j v hinv hs hfill hmode hvalid hj hv hoff
  have hverified : s.dec.mode ≠ .dstream := by rcases hmode with h | h <;> simp [h]
  have hlen : (f.set j v).length = s.dec.lLen.toNat + 6 := List.length_set.trans hvalid.1
  obtain ⟨t, ht, -, hno⟩ := decidedAfter_frame hinv hs hfill hlen hoff
  rw [List.length_set] at ht
  exact ⟨t, ht, hno (not_frameValid_set hverified hvalid hj hv)⟩

end Sys2Proof.Proofs
end

section
/-! Command responses (R500 to R516): what a payload byte of a `READ_RESP` delivers, what a read keeps while it consumes a frame,
what a valid frame leaves in the verified modes, and the obligations that follow. -/

namespace Sys2Proof.Machine

/-- `READ_RESP` on an idle decoder (R500). -/
theorem exec_readResp_of_idle {s : State} (hs : s.dec.state = .idle) :
    exec .readResp s = .next (startRead .resp s.regs.cfgRespSync 6 s) := by
  simp [exec, execReadResp, (Decoder.busy_eq_false_iff _).mpr hs]

/-! ### A payload byte of a `READ_RESP` (R510) -/

/-- The cycle of a consumed byte with what it leaves in the sink register (R571). -/
theorem Consumes.next_sink {s : State} {b : Byte} {d : DecoderOut} (h : Consumes s b) (hd : consumeByte s b = .ok d) :
    ∃ t, step s = .next t ∧ t.dec = d.dec ∧ t.buf = d.buf ∧ t.draws = d.draws ∧ t.sink = sinkAfter d.sink := by
  obtain ⟨hr, hb, ho⟩ := h
  obtain ⟨u, -, hstep⟩ := step_consume hr hb ho hd
  exact ⟨_, hstep, assemble_dec_of_running hb, rfl, rfl, rfl⟩

/-- A payload byte of a `READ_RESP` replaces byte `idx` of `RESP_PARAM` and `RESP_CODE` side by side, and no other. -/
theorem consume_payload_resp {s : State} (b : Byte) (hs : s.dec.state = .payload) (hm : s.dec.mode = .resp)
    (hi : s.dec.idx.toNat ≤ 5) :
    ∃ param code, consumeByte s b = .ok (onlyDec s { afterPayload s.dec b with respParam := param, respCode := code }) ∧
      (∀ j, j < 4 → byteOf param j = if j = s.dec.idx.toNat then b else byteOf s.dec.respParam j) ∧
      (∀ j, j < 2 → byteOf code j = if j + 4 = s.dec.idx.toNat then b else byteOf s.dec.respCode j) := by
  by_cases h3 : s.dec.idx.toNat ≤ 3
  · refine ⟨_, _, consume_payload_param b hs hm h3, fun j hj => byteOf_setByte _ _ _ _ (by omega) (by omega), fun j hj => ?_⟩
    rw [if_neg (by omega)]
    rfl
  · refine ⟨_, _, consume_payload_code b hs hm h3 hi, fun j hj => ?_, fun j hj => ?_⟩
    · rw [if_neg (by omega)]
      rfl
    · have hsame : j = s.dec.idx.toNat - 4 ↔ j + 4 = s.dec.idx.toNat := by omega
      simp only [← hsame]
      exact byteOf_setByte _ _ _ _ (by omega) (by omega)

/-! ### What a read keeps while it consumes the bytes on offer -/

/-- After `n` cycles from `s` the machine is in `t`, with the bytes `f` on offer: the latched values are those of `s`, and of `BUF`
only bytes below the latched length, in a `READ_DATA_BUF`, may differ. -/
structure ReadsOn (s : State) (n : Nat) (t : State) (f : List Byte) : Prop where
  run : steps n s = .next t
  inv : t.Inv
  acc : t.AccExact
  offered : FrameOffered t f
  params : t.params = s.params
  mode : t.dec.mode = s.dec.mode
  lS1 : t.dec.lS1 = s.dec.lS1
  lS2 : t.dec.lS2 = s.dec.lS2
  lDevid : t.dec.lDevid = s.dec.lDevid
  lLen : t.dec.lLen = s.dec.lLen
  buf : ∀ i, (s.dec.mode = .dbuf → s.dec.lLen.toNat ≤ i) → bufByte t i = bufByte s i

/-- A consumed byte leaves every byte of `BUF` but those a `READ_DATA_BUF` reads (R132, R560). -/
theorem bufByte_after_consume {s t : State} {b : Byte} {d : DecoderOut} (hinv : s.Inv) (hb : s.dec.state ≠ .idle)
    (hc : consumeByte s b = .ok d) (hbuf : t.buf = d.buf) (hparams : t.params = s.params) {i : Nat}
    (hi : s.dec.mode = .dbuf → s.dec.lLen.toNat ≤ i) : bufByte t i = bufByte s i := by
  have hd := (decoderCycle_consume ((Decoder.busy_iff _).mpr hb) b false).trans hc
  rcases decoderCycle_buf hd with hkept | ⟨hpay, hmode, hcap, b', -, hstored⟩
  · exact bufByte_congr (hbuf.trans hkept) hparams i
  · have hlt := (hinv.dec.payload_idx hpay).1
    have hle := hi hmode
    rw [bufByte_store (hbuf.trans hstored) hparams hcap, if_neg (by omega)]

namespace ReadsOn
variable {s t : State} {n : Nat}

/-- A read in SEEK, before its first byte. -/
theorem start {f : List Byte} (hinv : s.Inv) (hs : s.dec.state = .seek) (hoff : FrameOffered s f) : ReadsOn s 0 s f :=
  ⟨rfl, hinv, .of_idle_or_seek (.inr hs), hoff, rfl, rfl, rfl, rfl, rfl, rfl, fun _ _ => rfl⟩

/-- A running read consumes the next byte on offer. -/
theorem consume {b : Byte} {f : List Byte} {d : DecoderOut} (h : ReadsOn s n t (b :: f)) (hb : t.dec.state ≠ .idle)
    (hc : consumeByte t b = .ok d) : ∃ u, ReadsOn s (n + 1) u f ∧ u.dec = d.dec ∧ u.buf = d.buf := by
  obtain ⟨u, hu, hdec, hbuf, -⟩ := (h.offered.consumes hb).next hc
  obtain ⟨hmode, hs1, hs2, hdevid, -, hlen, -⟩ := consume_frame hb hc
  have hparams := step_params hu
  refine ⟨u, ?_, hdec, hbuf⟩
  constructor
  case run => rw [steps_add_of_steps n 1 h.run, steps_succ_of_step 0 hu, steps_zero]
  case inv => exact step_keeps_inv h.inv hu
  case acc => exact accExact_after_consume h.inv h.acc hb hc hdec hbuf hparams
  case offered => exact h.offered.tail hb hu
  case params => exact hparams.trans h.params
  case mode => rw [hdec, hmode, h.mode]
  case lS1 => rw [hdec, hs1, h.lS1]
  case lS2 => rw [hdec, hs2, h.lS2]
  case lDevid => rw [hdec, hdevid, h.lDevid]
  case lLen => rw [hdec, hlen, h.lLen]
  case buf =>
    intro i hi
    rw [← h.buf i hi]
    exact bufByte_after_consume h.inv hb hc hbuf hparams (by rwa [h.mode, h.lLen])

end ReadsOn

/-! ### A valid frame, part by part (R460 to R472) -/

/-- Outside streaming mode a consumed payload byte comes after those stored before it (R510, R560). -/
theorem storedBytes_after_payload {s t : State} {b : Byte} {d : DecoderOut} (hs : s.dec.state = .payload)
    (hmode : s.dec.mode ≠ .dstream) (hc : consumeByte s b = .ok d) (hdec : t.dec = d.dec) (hbuf : t.buf = d.buf)
    (hparams : t.params = s.params) :
    (List.range (s.dec.idx.toNat + 1)).map (storedByte t) = (List.range s.dec.idx.toNat).map (storedByte s) ++ [b] := by
  have hbyte {i : Nat} (hi : i ≤ s.dec.idx.toNat) : storedByte t i = if i = s.dec.idx.toNat then b else storedByte s i :=
    storedByte_after_payload hs hmode hc hdec hbuf hparams hi
  rw [List.range_succ, List.map_append, List.map_singleton, hbyte le_rfl, if_pos rfl]
  congr 1
  refine List.map_congr_left fun i hi => ?_
  have hlt := List.mem_range.mp hi
  rw [hbyte hlt.le, if_neg hlt.ne]

/-- The byte held in SEEK does not complete the latched pair with a frame's first byte (R486). -/
def Decoder.SyncClear (d : Decoder) : Prop :=
  d.srFill = 0 ∨ (d.sr.extractLsb' 0 8 : Byte) ≠ d.lS1 ∨ d.lS1 ≠ d.lS2

/-- Then the pair's first byte is only shifted in. -/
theorem seekByte_lS1 {d : Decoder} (h : d.SyncClear) :
    seekByte d d.lS1 = { d with
      sr := half (d.sr.extractLsb' 0 8) d.lS1, srFill := BitVec.ofNat 2 (min (d.srFill.toNat + 1) 2) } := by
  rw [seekByte_eq, if_neg]
  · rfl
  · rintro ⟨hfill, hheld, hpair⟩
    rcases h with hzero | hne | hne
    · simp [hzero] at hfill
    · exact hne hheld
    · exact hne hpair

/-- With the pair's first byte held, its second leaves SEEK. -/
theorem seekByte_lS2 {d : Decoder} {older : Byte} {k : Nat} (hsr : d.sr = half older d.lS1)
    (hfill : d.srFill = BitVec.ofNat 2 (min (k + 1) 2)) :
    (seekByte d d.lS2).state = .devid ∧ (seekByte d d.lS2).idx = 0 := by
  have hheld : (d.sr.extractLsb' 0 8 : Byte) = d.lS1 := by rw [hsr]; exact (byteOf_half older d.lS1).1
  have htwo : min (d.srFill.toNat + 1) 2 = 2 := by
    rw [hfill, BitVec.toNat_ofNat]
    omega
  rw [seekByte_eq, if_pos ⟨htwo, hheld, rfl⟩]
  exact ⟨rfl, rfl⟩

namespace ReadsOn
variable {s t : State} {n : Nat}

/-- The latched sync pair leads from SEEK to DEVID (R460, R486). -/
theorem syncPair {f : List Byte} (h : ReadsOn s n t (t.dec.lS1 :: t.dec.lS2 :: f)) (hs : t.dec.state = .seek)
    (hclear : t.dec.SyncClear) : ∃ u, ReadsOn s (n + 2) u f ∧ u.dec.state = .devid ∧ u.dec.idx = 0 := by
  obtain ⟨u, hu, hdec, -⟩ := h.consume (by simp [hs]) (consume_seek _ hs)
  replace hdec := hdec.trans (seekByte_lS1 (d := { t.dec with sc := 0 }) hclear)
  have hus : u.dec.state = .seek := by rw [hdec]; exact hs
  obtain ⟨v, hv, hvdec, -⟩ := hu.consume (by simp [hus]) (consume_seek _ hus)
  have hmatch := seekByte_lS2 (d := { u.dec with sc := 0 }) (older := t.dec.sr.extractLsb' 0 8) (k := t.dec.srFill.toNat)
    (by simp [hdec]) (by simp [hdec])
  have hsecond : u.dec.lS2 = t.dec.lS2 := by rw [hdec]
  refine ⟨v, hv, ?_⟩
  rw [hvdec, onlyDec_dec, ← hsecond]
  exact hmatch

/-- The latched device ID leads to the payload, or to the checksum of a frame without one (R465, R467). -/
theorem deviceId {i₀ i₁ : Byte} {f : List Byte} (h : ReadsOn s n t (i₀ :: i₁ :: f)) (hs : t.dec.state = .devid)
    (hi : t.dec.idx = 0) (hmatch : half i₁ i₀ = s.dec.lDevid) :
    ∃ u, ReadsOn s (n + 2) u f ∧ u.dec.idx = 0 ∧ u.dec.state = if s.dec.lLen = 0 then .cksum else .payload := by
  obtain ⟨u, hu, hdec, -⟩ := h.consume (by simp [hs]) (consume_devid_first i₀ hs hi)
  have hus : u.dec.state = .devid := by rw [hdec]; exact hs
  have hid : half i₁ u.dec.tmp = u.dec.lDevid := by rw [hu.lDevid, hdec]; exact hmatch
  obtain ⟨v, hv, hvdec, -⟩ := hu.consume (by simp [hus]) (consume_devid_match i₁ hus (by rw [hdec]; rfl) hid)
  exact ⟨v, hv, by rw [hvdec]; rfl, by rw [hvdec, ← hu.lLen]; rfl⟩

/-- In a verified mode the payload bytes are stored one after the other, and CKSUM follows the last (R468, R510, R560). -/
theorem payload {p c : List Byte} (h : ReadsOn s n t (p ++ c)) (hs : t.dec.state = .payload)
    (hmode : s.dec.mode ≠ .dstream) (hlen : t.dec.idx.toNat + p.length = s.dec.lLen.toNat) :
    ∃ u, ReadsOn s (n + p.length) u c ∧ u.dec.state = .cksum ∧ u.dec.idx = 0 ∧
      (List.range s.dec.lLen.toNat).map (storedByte u) = (List.range t.dec.idx.toNat).map (storedByte t) ++ p := by
  induction p generalizing n t with
  | nil =>
    have hlt := (h.inv.dec.payload_idx hs).1
    rw [h.lLen] at hlt
    simp only [List.length_nil] at hlen
    omega
  | cons b p ih =>
    have hb : t.dec.state ≠ .idle := by simp [hs]
    rw [List.length_cons] at hlen
    obtain ⟨o, ho⟩ := consumeByte_next h.inv hb b
    obtain ⟨param, code, hafter⟩ := consumeByte_payload hs ho
    obtain ⟨u, hu, hdec, hbuf⟩ := h.consume hb ho
    have hstored := storedBytes_after_payload hs (by rwa [h.mode]) ho hdec hbuf (hu.params.trans h.params.symm)
    rw [hafter] at hdec
    have hstate : u.dec.state = if t.dec.idx + 1 = t.dec.lLen then .cksum else .payload := by rw [hdec]; rfl
    have hidx : u.dec.idx = if t.dec.idx + 1 = t.dec.lLen then 0 else t.dec.idx + 1 := by rw [hdec]; rfl
    have hlt := (h.inv.dec.payload_idx hs).1
    have hnext : (t.dec.idx + 1).toNat = t.dec.idx.toNat + 1 := by bv_omega
    by_cases hlast : t.dec.idx + 1 = t.dec.lLen
    · rw [if_pos hlast] at hstate hidx
      have hend : s.dec.lLen.toNat = t.dec.idx.toNat + 1 := by rw [← h.lLen, ← hlast, hnext]
      have hnil : p = [] := List.length_eq_zero_iff.mp (by omega)
      subst hnil
      exact ⟨u, hu, hstate, hidx, by rw [hend, hstored]⟩
    · rw [if_neg hlast] at hstate hidx
      have huidx : u.dec.idx.toNat = t.dec.idx.toNat + 1 := by rw [hidx, hnext]
      obtain ⟨v, hv, hvs, hvi, hvstored⟩ := ih hu hstate (by omega)
      refine ⟨v, by rwa [List.length_cons, Nat.add_comm p.length, ← Nat.add_assoc], hvs, hvi, ?_⟩
      rw [hvstored, huidx, hstored, List.append_assoc]
      rfl

/-- An accepted checksum ends the read with OK, what was stored kept (R470, R472, R572). -/
theorem checksum {c₀ c₁ : Byte} (h : ReadsOn s n t [c₀, c₁]) (hs : t.dec.state = .cksum) (hi : t.dec.idx = 0)
    (hok : half c₁ c₀ = t.dec.acc ∨ t.dec.mode = .dstream) :
    ∃ u, ReadsOn s (n + 2) u [] ∧ u.dec.state = .idle ∧ u.dec.result = .ok ∧ ∀ i, storedByte u i = storedByte t i := by
  obtain ⟨u, hu, hdec, hbuf⟩ := h.consume (by simp [hs]) (consume_cksum_first c₀ hs hi)
  have hus : u.dec.state = .cksum := by rw [hdec]; exact hs
  have huok : half c₁ u.dec.tmp = u.dec.acc ∨ u.dec.mode = .dstream := by rw [hdec]; exact hok
  obtain ⟨v, hv, hvdec, hvbuf⟩ := hu.consume (by simp [hus]) (consume_cksum_accept c₁ hus (by rw [hdec]; rfl) huok)
  refine ⟨v, hv, by rw [hvdec]; rfl, by rw [hvdec]; rfl, fun i => ?_⟩
  exact storedByte_congr (by rw [hvdec, hdec]; rfl) (by rw [hvdec, hdec]; rfl) (by rw [hvdec, hdec]; rfl) (hvbuf.trans hbuf)
    (hv.params.trans h.params.symm) i

end ReadsOn

/-- In a verified mode a valid frame consumed from SEEK ends the read with OK, its payload stored (R468, R472, R485, R486). -/
theorem readsOn_validFrame {s : State} {f : List Byte} (hinv : s.Inv) (hs : s.dec.state = .seek)
    (hmode : s.dec.mode ≠ .dstream) (hclear : s.dec.SyncClear) (hvalid : frameValid s.dec f) (hoff : FrameOffered s f) :
    ∃ t, ReadsOn s f.length t [] ∧ t.dec.state = .idle ∧ t.dec.result = .ok ∧
      ∀ i < s.dec.lLen.toNat, storedByte t i = payloadAt f i := by
  obtain ⟨y₁, y₂, i₀, i₁, p, c₀, c₁, hparts, hp⟩ := exists_frame_parts hvalid.1
  have hcycles : f.length = 4 + p.length + 2 := by rw [hvalid.1, hp]; omega
  rw [hcycles]
  subst hparts
  obtain ⟨⟨rfl, rfl⟩, hdevid, hck⟩ := (frameValid_iff hp).mp hvalid
  obtain ⟨t, ht, hts, hti⟩ := (ReadsOn.start hinv hs hoff).syncPair hs hclear
  obtain ⟨u, hu, hui, hus⟩ := ht.deviceId hts hti hdevid
  have hpayload : ∃ v, ReadsOn s (4 + p.length) v [c₀, c₁] ∧ v.dec.state = .cksum ∧ v.dec.idx = 0 ∧
      (List.range s.dec.lLen.toNat).map (storedByte v) = p := by
    by_cases hzero : s.dec.lLen = 0
    · have hnil : p = [] := List.length_eq_zero_iff.mp (by rw [hp, hzero]; rfl)
      subst hnil
      exact ⟨u, hu, by rw [hus, if_pos hzero], hui, by rw [hzero]; rfl⟩
    · rw [if_neg hzero] at hus
      simpa [hui] using hu.payload hus hmode (by simp [hui, hp])
  obtain ⟨v, hv, hvs, hvi, hstored⟩ := hpayload
  have hacc : half c₁ c₀ = v.dec.acc := by
    rw [hv.acc.cksum hvs (by rwa [hv.mode]), recomputed, hv.lLen, hstored, hv.lS1, hv.lS2, hv.lDevid, ← hdevid,
      (byteOf_half i₁ i₀).1, (byteOf_half i₁ i₀).2]
    exact hck.resolve_left hmode
  obtain ⟨w, hw, hws, hwok, hkept⟩ := hv.checksum hvs hvi (.inl hacc)
  refine ⟨w, hw, hws, hwok, fun i hi => ?_⟩
  have hbyte : p[i]? = some (storedByte v i) := by simp [← hstored, hi]
  rw [hkept i]
  simp only [payloadAt, List.getD_eq_getElem?_getD, Nat.add_comm 4 i, List.getElem?_cons_succ]
  rw [List.getElem?_append_left (by omega), hbyte]
  rfl

/-- A 32-bit value put together from its four bytes (R220, R305). -/
theorem append_byteOf (v : Word) : byteOf v 3 ++ byteOf v 2 ++ byteOf v 1 ++ byteOf v 0 = v := by
  apply BitVec.eq_of_toNat_eq
  have hv := v.isLt
  simp only [byteOf, toNat_append_eq_add, BitVec.extractLsb'_toNat, Nat.shiftRight_eq_div_pow]
  omega

end Sys2Proof.Machine

namespace Sys2Proof.Proofs

open Sys2Proof Sys2Proof.Machine

/-- Settles O57: a `READ_RESP` stores the six payload bytes in `RESP_PARAM` and `RESP_CODE`, which are put together from them. -/
theorem validResponseIsReturned : Obligations.ValidResponseIsReturned := by
  unfold Obligations.ValidResponseIsReturned
  intro s f hinv hs hmode hclear hvalid hoff
  have hlen : s.dec.lLen = 6 := hinv.dec.resp_len hmode (.inl (by simp [hs]))
  have hsix : s.dec.lLen.toNat = 6 := by rw [hlen]; rfl
  obtain ⟨t, ht, hidle, hok, hstored⟩ := readsOn_validFrame hinv hs (by simp [hmode]) hclear hvalid hoff
  have hcount : t.dec.count = 6 := by rw [ht.inv.dec.ok_count hok, ht.lLen, hlen]
  have htm : t.dec.mode = .resp := by rw [ht.mode, hmode]
  have hparam (i : Nat) (hi : i ≤ 3) : byteOf t.dec.respParam i = payloadAt f i := by
    rw [← hstored i (by omega), storedByte, if_pos htm, if_pos hi]
  have hcode (i : Nat) (hi : i < 2) : byteOf t.dec.respCode i = payloadAt f (i + 4) := by
    rw [← hstored (i + 4) (by omega), storedByte, if_pos htm, if_neg (by omega)]
    rfl
  have hrun := ht.run
  rw [hvalid.1, hsix] at hrun
  refine ⟨t, hrun, hidle, ht.inv.dec.done_iff.mpr (by simp [hok]), hok, hcount, ?_, ?_, fun i => ht.buf i (by simp [hmode])⟩
  · rw [← hparam 3 (by omega), ← hparam 2 (by omega), ← hparam 1 (by omega), ← hparam 0 (by omega), append_byteOf]
  · rw [← hcode 1 (by omega), ← hcode 0 (by omega)]
    exact (half_byteOf _).symm

/-- Settles O38: the byte replaces its byte of the two registers, and the part common to every mode does the rest. -/
theorem respPayloadByteIsDelivered : Obligations.RespPayloadByteIsDelivered := by
  unfold Obligations.RespPayloadByteIsDelivered
  intro s b hc hs hmode hidx
  obtain ⟨param, code, hd, hparam, hcode⟩ := consume_payload_resp b hs hmode hidx
  obtain ⟨t, ht, hdec, hbuf, hdraws, hsink⟩ := hc.next_sink hd
  refine ⟨t, ht, ?_, ?_, ?_, hbuf, hdraws, hsink⟩
  · rw [hdec]; exact hparam
  · rw [hdec]; exact hcode
  · rw [hdec]; rfl

/-- Settles O13: an idle decoder accepts the command and starts the read. -/
theorem readRespStartsARead : Obligations.ReadRespStartsARead := by
  unfold Obligations.ReadRespStartsARead
  intro s hs
  exact exec_readResp_of_idle hs

end Sys2Proof.Proofs
end

section
/-! Data responses (R550 to R574): the commands that start a data read, what a cycle gives the sink, what a streamed frame leaves,
and the obligations that follow. -/

namespace Sys2Proof.Machine

/-! ### The commands (R550, R551) -/

section
variable {s : State} (hs : s.dec.state = .idle)
include hs

/-- `READ_DATA_BUF` refuses a length above the buffer's capacity (R550). -/
theorem exec_readDataBuf_of_too_long (hlen : s.params.bufBytes < s.regs.decLen.toNat) :
    exec .readDataBuf s = .next { s with dec := { s.dec with mode := .dbuf, done := true, result := .badlen } } := by
  simp [exec, execReadDataBuf, (Decoder.busy_eq_false_iff _).mpr hs, hlen]

/-- `READ_DATA_BUF` reads a length within the buffer's capacity (R550). -/
theorem exec_readDataBuf_of_fits (hlen : s.regs.decLen.toNat ≤ s.params.bufBytes) :
    exec .readDataBuf s = .next (startRead .dbuf s.regs.cfgDataSync s.regs.decLen s) := by
  simp [exec, execReadDataBuf, (Decoder.busy_eq_false_iff _).mpr hs, Nat.not_lt.mpr hlen]

/-- `READ_DATA_STREAM` reads any length (R551). -/
theorem exec_readDataStream_of_idle :
    exec .readDataStream s = .next (startRead .dstream s.regs.cfgDataSync s.regs.decLen s) := by
  simp [exec, execReadDataStream, (Decoder.busy_eq_false_iff _).mpr hs]

end

/-! ### What a cycle gives the sink (R570, R571) -/

/-- The byte offered, where it is a payload byte of a `READ_DATA_STREAM` (R570). -/
def streamed (s : State) (rx : Option Byte) : Option Byte :=
  if s.dec.state = .payload ∧ s.dec.mode = .dstream then rx else none

theorem streamed_of_not_payload {s : State} (h : s.dec.state ≠ .payload) (rx : Option Byte) : streamed s rx = none :=
  if_neg fun hp => h hp.1

theorem streamed_of_payload {s : State} (hs : s.dec.state = .payload) (hm : s.dec.mode = .dstream) (rx : Option Byte) :
    streamed s rx = rx :=
  if_pos ⟨hs, hm⟩

/-- A consumed byte goes to the sink register exactly if it is streamed. -/
theorem consumeByte_sink {s : State} {b : Byte} {d : DecoderOut} (hb : s.dec.state ≠ .idle) (h : consumeByte s b = .ok d) :
    d.sink = streamed s (some b) := by
  by_cases hstream : s.dec.state = .payload ∧ s.dec.mode = .dstream
  · obtain ⟨hs, hm⟩ := hstream
    rw [consume_payload_stream b hs hm] at h
    cases h
    exact (streamed_of_payload hs hm _).symm
  rw [streamed, if_neg hstream]
  rcases consumeByte_cases hb h with ⟨-, rfl⟩ | ⟨-, -, rfl⟩ | ⟨-, -, -, rfl⟩ | ⟨-, -, -, rfl⟩ | ⟨-, -, -, rfl⟩ |
    ⟨-, -, -, -, rfl⟩ | ⟨-, -, -, rfl⟩ | ⟨hs, hm, -⟩ | ⟨-, -, rfl⟩ | ⟨-, -, -, -, rfl⟩ | ⟨-, -, -, rfl⟩
  pick_goal 8
  · exact absurd ⟨hs, hm⟩ hstream
  all_goals rfl

/-- The decoder's part of a cycle gives the sink register the byte streamed in it, if any. -/
theorem decoderCycle_sink {s : State} {rx : Option Byte} {tick : Bool} {d : DecoderOut} (h : decoderCycle s rx tick = .ok d) :
    d.sink = streamed s rx := by
  rcases decoderCycle_cases h with ⟨hidle, rfl⟩ | ⟨b, hb, rfl, hc⟩ | ⟨-, rfl, rfl⟩
  · exact (streamed_of_not_payload (by simp [hidle]) rx).symm
  · exact consumeByte_sink hb hc
  · obtain ⟨-, -, -, -, -, -, -, hsink, -⟩ := silent_frame s tick
    simp [hsink, streamed]

/-- What the sink has been given, with the byte the sink register shows it in the coming cycle (R571; log 11). -/
def sinkRecord (s : State) : List Byte := s.env.sinkSeen ++ if s.sink.valid then [s.sink.data] else []

theorem sinkRecord_of_empty {s : State} (h : s.sink.valid = false) : sinkRecord s = s.env.sinkSeen := by
  simp [sinkRecord, h]

/-- A cycle without reset shows the sink the register and fills it with the byte streamed, if any. -/
theorem step_sink {s t : State} (h : step s = .next t) (hr : (currentInput s).rst = false) :
    t.sink = sinkAfter (streamed s (rxOffered s (currentInput s))) ∧ t.env.sinkSeen = sinkRecord s := by
  obtain ⟨u, d, -, hd, rfl⟩ := step_parts_of_not_rst h hr
  refine ⟨by rw [assemble_sink, decoderCycle_sink hd], ?_⟩
  cases hv : s.sink.valid <;> simp [envAfter, outputs, sinkRecord, hv]

/-- A cycle without reset adds to the record the byte streamed in it, if any. -/
theorem step_sinkRecord {s t : State} (h : step s = .next t) (hr : (currentInput s).rst = false) :
    sinkRecord t = sinkRecord s ++ (streamed s (rxOffered s (currentInput s))).toList := by
  obtain ⟨hsink, hseen⟩ := step_sink h hr
  rw [sinkRecord, hseen, hsink]
  cases streamed s (rxOffered s (currentInput s)) <;> rfl

/-! ### A streamed frame (R572, R573) -/

/-- Outside PAYLOAD the first byte of a field neither ends the read nor enters PAYLOAD (R460, R465, R470). -/
theorem consume_first_of_not_payload {s : State} {b : Byte} {d : DecoderOut} (hb : s.dec.state ≠ .idle)
    (hpay : s.dec.state ≠ .payload) (hi : s.dec.idx = 0) (h : consumeByte s b = .ok d) :
    d.dec.state ≠ .idle ∧ d.dec.state ≠ .payload := by
  cases hs : s.dec.state
  case idle => exact absurd hs hb
  case seek =>
    rw [consume_seek b hs] at h
    cases h
    obtain ⟨-, -, -, -, -, -, -, -, -, -, -, -, hstate⟩ := seekByte_frame { s.dec with sc := 0 } b
    rcases hstate hs with hd | hd <;> rw [onlyDec_dec, hd] <;> decide
  case devid =>
    rw [consume_devid_first b hs hi] at h
    cases h
    simp [hs]
  case payload => exact absurd hs hpay
  case cksum =>
    rw [consume_cksum_first b hs hi] at h
    cases h
    simp [hs]

/-- One cycle is a step. -/
theorem steps_one (s : State) : steps 1 s = step s := by
  cases h : step s <;> simp [steps, h]

namespace ReadsOn
variable {s t u : State} {n : Nat} {b : Byte} {f g : List Byte}

/-- The state after one cycle more is the next one. -/
theorem step_next (h : ReadsOn s n t f) (hu : ReadsOn s (n + 1) u g) : step t = .next u := by
  rw [← hu.run, steps_add_of_steps n 1 h.run, steps_one]

/-- A read that ended with OK is done and has counted its whole payload. -/
theorem done_and_count (h : ReadsOn s n t f) (hok : t.dec.result = .ok) : t.dec.done = true ∧ t.dec.count = s.dec.lLen :=
  ⟨h.inv.dec.done_iff.mpr (by simp [hok]), (h.inv.dec.ok_count hok).trans h.lLen⟩

/-- What the cycle that consumes the next byte on offer does to the sink register and the record. -/
theorem sink_next (h : ReadsOn s n t (b :: f)) (hu : ReadsOn s (n + 1) u g) (hb : t.dec.state ≠ .idle) :
    u.sink = sinkAfter (streamed t (some b)) ∧ sinkRecord u = sinkRecord t ++ (streamed t (some b)).toList := by
  obtain ⟨hr, -, hoffered⟩ := h.offered.consumes hb
  have hstep := h.step_next hu
  rw [← hoffered]
  exact ⟨(step_sink hstep hr).1, step_sinkRecord hstep hr⟩

/-- The two bytes of a sync pair, a device ID or a checksum give the sink nothing. -/
theorem sink_after_field {b' : Byte} (h : ReadsOn s n t (b :: b' :: f)) (hu : ReadsOn s (n + 2) u g)
    (hb : t.dec.state ≠ .idle) (hpay : t.dec.state ≠ .payload) (hi : t.dec.idx = 0) :
    u.sink.valid = false ∧ sinkRecord u = sinkRecord t := by
  obtain ⟨d, hd⟩ := consumeByte_next h.inv hb b
  obtain ⟨v, hv, hdec, -⟩ := h.consume hb hd
  obtain ⟨hvb, hvpay⟩ := consume_first_of_not_payload hb hpay hi hd
  rw [← hdec] at hvb hvpay
  obtain ⟨-, hfirst⟩ := h.sink_next hv hb
  obtain ⟨hsink, hsecond⟩ := hv.sink_next hu hvb
  rw [streamed_of_not_payload hpay] at hfirst
  rw [streamed_of_not_payload hvpay] at hsink hsecond
  simp [hsink, hsecond, hfirst]

/-- A payload byte is the last, and CKSUM follows, or the next one comes (R468). -/
theorem payload_next (h : ReadsOn s n t (b :: f)) (hs : t.dec.state = .payload) :
    ∃ u, ReadsOn s (n + 1) u f ∧
      ((t.dec.idx.toNat + 1 = s.dec.lLen.toNat ∧ u.dec.state = .cksum ∧ u.dec.idx = 0) ∨
        (u.dec.state = .payload ∧ u.dec.idx.toNat = t.dec.idx.toNat + 1)) := by
  have hb : t.dec.state ≠ .idle := by simp [hs]
  obtain ⟨d, hd⟩ := consumeByte_next h.inv hb b
  obtain ⟨param, code, hafter⟩ := consumeByte_payload hs hd
  obtain ⟨u, hu, hdec, -⟩ := h.consume hb hd
  rw [hafter] at hdec
  have hlt := (h.inv.dec.payload_idx hs).1
  have hnext : (t.dec.idx + 1).toNat = t.dec.idx.toNat + 1 := by bv_omega
  refine ⟨u, hu, ?_⟩
  by_cases hlast : t.dec.idx + 1 = t.dec.lLen
  · exact .inl ⟨by rw [← hnext, hlast, h.lLen], by rw [hdec]; exact if_pos hlast, by rw [hdec]; exact if_pos hlast⟩
  · refine .inr ⟨by rw [hdec]; exact if_neg hlast, ?_⟩
    rw [← hnext, hdec]
    exact congrArg BitVec.toNat (if_neg hlast)

/-- In streaming mode the record grows by the payload bytes in order, and CKSUM follows the last (R468, R570). -/
theorem streamedPayload {p c : List Byte} (h : ReadsOn s n t (p ++ c)) (hs : t.dec.state = .payload)
    (hmode : s.dec.mode = .dstream) (hlen : t.dec.idx.toNat + p.length = s.dec.lLen.toNat) :
    ∃ u, ReadsOn s (n + p.length) u c ∧ u.dec.state = .cksum ∧ u.dec.idx = 0 ∧ sinkRecord u = sinkRecord t ++ p := by
  induction p generalizing n t with
  | nil =>
    have hlt := (h.inv.dec.payload_idx hs).1
    rw [h.lLen] at hlt
    rw [List.length_nil] at hlen
    omega
  | cons b p ih =>
    rw [List.length_cons] at hlen ⊢
    obtain ⟨u, hu, hstate⟩ := h.payload_next hs
    obtain ⟨-, hrecord⟩ := h.sink_next hu (by simp [hs])
    rw [streamed_of_payload hs (h.mode.trans hmode)] at hrecord
    rcases hstate with ⟨hlast, hus, hui⟩ | ⟨hus, hui⟩
    · have hnil : p = [] := List.length_eq_zero_iff.mp (by omega)
      subst hnil
      exact ⟨u, hu, hus, hui, hrecord⟩
    · obtain ⟨v, hv, hvs, hvi, hvrecord⟩ := ih hu hus (by omega)
      refine ⟨v, by rwa [Nat.add_comm p.length, ← Nat.add_assoc], hvs, hvi, ?_⟩
      rw [hvrecord, hrecord, List.append_assoc]
      rfl

end ReadsOn

/-- In streaming mode a frame consumed from SEEK ends the read with OK whatever its checksum, its payload given to the sink and the
sink register empty (R468, R572, R573, R486). -/
theorem readsOn_streamFrame {s : State} {f : List Byte} (hinv : s.Inv) (hs : s.dec.state = .seek)
    (hmode : s.dec.mode = .dstream) (hclear : s.dec.SyncClear) (hvalid : frameValid s.dec f) (hoff : FrameOffered s f) :
    ∃ t, ReadsOn s f.length t [] ∧ t.dec.state = .idle ∧ t.dec.result = .ok ∧ t.sink.valid = false ∧
      sinkRecord t = sinkRecord s ++ (f.drop 4).take s.dec.lLen.toNat := by
  obtain ⟨y₁, y₂, i₀, i₁, p, c₀, c₁, hparts, hp⟩ := exists_frame_parts hvalid.1
  have hcycles : f.length = 4 + p.length + 2 := by rw [hvalid.1, hp]; omega
  rw [hcycles]
  subst hparts
  obtain ⟨⟨rfl, rfl⟩, hdevid, -⟩ := (frameValid_iff hp).mp hvalid
  have hstart := ReadsOn.start hinv hs hoff
  obtain ⟨t, ht, hts, hti⟩ := hstart.syncPair hs hclear
  obtain ⟨u, hu, hui, hus⟩ := ht.deviceId hts hti hdevid
  obtain ⟨-, hsync⟩ := hstart.sink_after_field ht (by simp [hs]) (by simp [hs]) (hinv.dec.seek_idx hs)
  obtain ⟨-, hid⟩ := ht.sink_after_field hu (by simp [hts]) (by simp [hts]) hti
  have hpayload : ∃ v, ReadsOn s (4 + p.length) v [c₀, c₁] ∧ v.dec.state = .cksum ∧ v.dec.idx = 0 ∧
      sinkRecord v = sinkRecord u ++ p := by
    by_cases hzero : s.dec.lLen = 0
    · have hnil : p = [] := List.length_eq_zero_iff.mp (by rw [hp, hzero]; rfl)
      subst hnil
      exact ⟨u, hu, by rw [hus, if_pos hzero], hui, (List.append_nil _).symm⟩
    · rw [if_neg hzero] at hus
      exact hu.streamedPayload hus hmode (by simp [hui, hp])
  obtain ⟨v, hv, hvs, hvi, hrecord⟩ := hpayload
  obtain ⟨w, hw, hws, hwok, -⟩ := hv.checksum hvs hvi (.inr (hv.mode.trans hmode))
  obtain ⟨hempty, hck⟩ := hv.sink_after_field hw (by simp [hvs]) (by simp [hvs]) hvi
  refine ⟨w, hw, hws, hwok, hempty, ?_⟩
  rw [hck, hrecord, hid, hsync, ← hp]
  simp

end Sys2Proof.Machine

namespace Sys2Proof.Proofs

open Sys2Proof Sys2Proof.Machine

/-- Settles O58: a `READ_DATA_BUF` stores the payload bytes in `BUF`, and no read writes beyond the latched length. -/
theorem validDataFrameFillsBuf : Obligations.ValidDataFrameFillsBuf := by
  unfold Obligations.ValidDataFrameFillsBuf
  intro s f hinv hs hmode hclear hvalid hoff
  obtain ⟨t, ht, hidle, hok, hstored⟩ := readsOn_validFrame hinv hs (by simp [hmode]) hclear hvalid hoff
  obtain ⟨hdone, hcount⟩ := ht.done_and_count hok
  have hnotresp : t.dec.mode ≠ .resp := by simp [ht.mode, hmode]
  refine ⟨t, ht.run, hidle, hdone, hok, hcount, fun i => ?_⟩
  split
  · next hi => rw [← hstored i hi, storedByte, if_neg hnotresp]
  · next hi => exact ht.buf i fun _ => Nat.le_of_not_lt hi

/-- Settles O59: the record grows by the payload only, and at the end the sink register holds none of it back. -/
theorem streamFrameReachesTheSink : Obligations.StreamFrameReachesTheSink := by
  unfold Obligations.StreamFrameReachesTheSink
  intro s f hinv hs hmode hsink hclear hvalid hoff
  obtain ⟨t, ht, hidle, hok, hempty, hrecord⟩ := readsOn_streamFrame hinv hs hmode hclear hvalid hoff
  obtain ⟨hdone, hcount⟩ := ht.done_and_count hok
  rw [sinkRecord_of_empty hempty, sinkRecord_of_empty hsink] at hrecord
  exact ⟨t, ht.run, hidle, hdone, hok, hcount, hrecord, fun i => ht.buf i (by simp [hmode])⟩

/-- Settles O39: `BUF` takes the byte at `idx`, and the part common to every mode does the rest. -/
theorem dbufPayloadByteIsStored : Obligations.DbufPayloadByteIsStored := by
  unfold Obligations.DbufPayloadByteIsStored
  intro s b hc hs hmode hidx
  obtain ⟨t, ht, hdec, hbuf, hdraws, hsink⟩ := hc.next_sink (consume_payload_dbuf b hs hmode hidx)
  exact ⟨t, ht, bufByte_store hbuf (step_params ht) hidx, hdec, hdraws, hsink⟩

/-- Settles O40: the sink register takes the byte, and the part common to every mode does the rest. -/
theorem streamPayloadByteGoesToTheSink : Obligations.StreamPayloadByteGoesToTheSink := by
  unfold Obligations.StreamPayloadByteGoesToTheSink
  intro s b hc hs hmode
  obtain ⟨t, ht, hdec, hbuf, hdraws, hsink⟩ := hc.next_sink (consume_payload_stream b hs hmode)
  exact ⟨t, ht, hsink, hdec, hbuf, hdraws⟩

/-- Settles O46: the outputs show the register as it was, and it becomes the byte streamed in the cycle, if any. -/
theorem sinkRegisterHoldsOneByteForOneCycle : Obligations.SinkRegisterHoldsOneByteForOneCycle := by
  unfold Obligations.SinkRegisterHoldsOneByteForOneCycle
  intro s t h hr
  obtain ⟨-, -, -, hvalid, hdata⟩ := (outputsAreFunctionsOfTheState s t h).2 hr
  obtain ⟨hsink, -⟩ := step_sink h hr
  refine ⟨hvalid, fun hv => hdata.trans (if_pos hv), fun b hb hs hm => ?_, fun hnone => ?_⟩
  · rw [hsink, streamed_of_payload hs hm, hb, sinkAfter_some]
  · have hstreamed : streamed s (rxOffered s (currentInput s)) = none := by
      rcases hnone with hrx | hs | hm
      · simp [streamed, hrx]
      · exact streamed_of_not_payload hs _
      · exact if_neg fun hstream => hm hstream.2
    rw [hsink, hstreamed, sinkAfter_none]

/-- Settles O14: an idle decoder compares the length with the buffer's capacity. -/
theorem readDataBufStartsOrRefuses : Obligations.ReadDataBufStartsOrRefuses := by
  unfold Obligations.ReadDataBufStartsOrRefuses
  intro s hs
  exact ⟨exec_readDataBuf_of_too_long hs, exec_readDataBuf_of_fits hs⟩

/-- Settles O15: an idle decoder accepts the command and starts the read. -/
theorem readDataStreamStartsARead : Obligations.ReadDataStreamStartsARead := by
  unfold Obligations.ReadDataStreamStartsARead
  intro s hs
  exact exec_readDataStream_of_idle hs

end Sys2Proof.Proofs
end

section
/-! Control (R600 to R621): which commands a state refuses, what a command makes of `REJ` and of the units, what clears the completion
flags, and the obligations that follow. -/

namespace Sys2Proof

/-- The three read commands, which the decoder carries out (R500, R550, R551). -/
abbrev Instr.IsRead (i : Instr) : Prop := i = .readResp ∨ i = .readDataBuf ∨ i = .readDataStream

end Sys2Proof

namespace Sys2Proof.Machine

/-! ### Refused commands and `REJ` (R605, R610, R620) -/

/-- The commands refused in a state: the reserved ones (R605), and those to a unit that is busy (R610). -/
def Refused (i : Instr) (s : State) : Prop :=
  i = .reserved5 ∨ i = .reserved6 ∨ i = .reserved7 ∨ (i = .encode ∧ s.enc.busy = true) ∨ (i.IsRead ∧ s.dec.state ≠ .idle)

theorem Refused.encode {s : State} (hb : s.enc.busy = true) : Refused .encode s := by simp [Refused, hb]

theorem Refused.read {i : Instr} {s : State} (hi : i.IsRead) (hb : s.dec.state ≠ .idle) : Refused i s := by simp [Refused, hi, hb]

/-- A refused command only sets `REJ` (R605, R610). -/
theorem exec_of_refused {i : Instr} {s : State} (h : Refused i s) : exec i s = .next { s with rej := true } := by
  rcases h with rfl | rfl | rfl | ⟨rfl, hb⟩ | ⟨hi, hb⟩
  · rfl
  · rfl
  · rfl
  · simp [exec, execEncode, hb, reject]
  · have hbusy : s.dec.busy = true := (Decoder.busy_iff _).mpr hb
    rcases hi with rfl | rfl | rfl
    · simp [exec, execReadResp, hbusy, reject]
    · simp [exec, execReadDataBuf, hbusy, reject]
    · simp [exec, execReadDataStream, hbusy, reject]

/-- After a command `REJ` is set exactly if the command was refused, or `REJ` was set and the command is not `CLR_REJ`. -/
theorem exec_rej {i : Instr} {s u : State} (h : exec i s = .next u) :
    u.rej = true ↔ Refused i s ∨ (s.rej = true ∧ i ≠ .clrRej) := by
  by_cases hi : Refused i s
  · rw [exec_of_refused hi] at h
    cases h
    simp [hi]
  · rcases exec_cases i s with ⟨rfl, e⟩ | ⟨hrefused, -⟩ | ⟨rfl, e⟩ | ⟨rfl, -, e⟩ | ⟨rfl, -, e⟩ | ⟨rfl, -, -, e⟩ | ⟨rfl, -, -, e⟩ |
      ⟨rfl, -, e⟩
    case inr.inl => exact absurd (by simpa only [Refused, ← Decoder.busy_iff] using hrefused) hi
    all_goals
      rw [e] at h
      cases h
      simp [hi]

/-! ### The frame of a command (R600) -/

/-- No command writes a host register, the sink register, a parameter, the draws, the agents or `BUF`. -/
theorem exec_frame {i : Instr} {s u : State} (h : exec i s = .next u) :
    u.regs = s.regs ∧ u.sink = s.sink ∧ u.params = s.params ∧ u.draws = s.draws ∧ u.env = s.env ∧ u.buf = s.buf := by
  rcases exec_cases i s with ⟨-, e⟩ | ⟨-, e⟩ | ⟨-, e⟩ | ⟨-, -, e⟩ | ⟨-, -, e⟩ | ⟨-, -, -, e⟩ | ⟨-, -, -, e⟩ | ⟨-, -, e⟩
  all_goals
    rw [e] at h
    cases h
    exact ⟨rfl, rfl, rfl, rfl, rfl, rfl⟩

/-- A command that is no read leaves the decoder alone. -/
theorem decoderAfterCommand_of_not_read {i : Instr} (hi : ¬ i.IsRead) (s : State) : decoderAfterCommand i s = s.dec := by
  cases i
  case readResp | readDataBuf | readDataStream => simp at hi
  all_goals simp [decoderAfterCommand]

/-- Starting or refusing a read keeps what the last one received (R452, R550). -/
theorem decoderAfterCommand_received (i : Instr) (s : State) :
    (decoderAfterCommand i s).respParam = s.dec.respParam ∧ (decoderAfterCommand i s).respCode = s.dec.respCode ∧
    (decoderAfterCommand i s).tmp = s.dec.tmp ∧ (decoderAfterCommand i s).acc = s.dec.acc := by
  unfold decoderAfterCommand
  split
  · exact ⟨rfl, rfl, rfl, rfl⟩
  · cases i
    case readDataBuf => dsimp only; split <;> exact ⟨rfl, rfl, rfl, rfl⟩
    all_goals exact ⟨rfl, rfl, rfl, rfl⟩

/-! ### A command against the cycle without an access -/

/-- A command that only gives `REJ` a value does so to the cycle without an access. -/
theorem step_command_rej {s t : State} {i : Instr} {r : Bool} (h : step (presentAccess s BusIn.idle) = .next t)
    (hx : exec i s = .next { s with rej := r }) (alow : BitVec 2) (junk : Word) :
    step (presentAccess s (encodeWith i alow junk)) = .next { t with rej := r } := by
  obtain ⟨hregs, -⟩ := step_idle_frame h
  obtain ⟨henc, hdec⟩ := step_idle_units h
  rw [step_command (decode_encodeWith _ _ _) h (exec_presentAccess hx), ← hregs]
  simp only [henc, hdec]

/-- Storing to `STATUS` changes no host register (R211). -/
theorem storeAccess_status {addr : BitVec 13} (hp : place addr = .reg .status) (r : HostRegs) (v : Word) :
    storeAccess r (BusIn.write addr v) = r := by
  simp [storeAccess, BusIn.write, hp, writeRegister]

/-- A write of `STATUS` with bit 8 clear adds nothing to the cycle without an access (R620). -/
theorem step_status_without_clear {s t : State} {addr : BitVec 13} {v : Word} (h : step (presentAccess s BusIn.idle) = .next t)
    (hp : place addr = .reg .status) (hv : v.getLsbD 8 = false) : step (presentAccess s (BusIn.write addr v)) = .next t := by
  obtain ⟨hregs, -⟩ := step_idle_frame h
  have hno : decode (BusIn.write addr v) = .error .statusWithoutClear := by
    rw [decode_write_status hp, hv, if_neg Bool.false_ne_true]
  rw [step_store h hno, storeAccess_status hp, ← hregs]

/-! ### The completion flags (R621) -/

/-- The encoder's part of a cycle never clears `ENC_DONE` (R410, R411). -/
theorem encoderCycle_keeps_done {e : Encoder} (h : e.done = true) (txReady : Bool) : (encoderCycle e txReady).done = true := by
  unfold encoderCycle
  split
  · split
    · rfl
    · exact h
  · exact h

/-- `d'` keeps the completion flags of `d` set: `DEC_DONE`, and `DEC_RESULT` other than NONE. -/
def Decoder.KeepsFlags (d d' : Decoder) : Prop :=
  (d.done = true → d'.done = true) ∧ (d.result ≠ .none → d'.result ≠ .none)

theorem Decoder.keepsFlags_of_eq {d d' : Decoder} (hdone : d'.done = d.done) (hresult : d'.result = d.result) : d.KeepsFlags d' :=
  ⟨fun h => hdone.trans h, fun h => hresult.trans_ne h⟩

theorem Decoder.keepsFlags_of_finished {d d' : Decoder} (hdone : d'.done = true) (hresult : d'.result ≠ .none) : d.KeepsFlags d' :=
  ⟨fun _ => hdone, fun _ => hresult⟩

/-- The decoder's part of a cycle keeps the flags, or sets them by `finish` (R480). -/
theorem decoderCycle_keepsFlags {s : State} {rx : Option Byte} {tick : Bool} {d : DecoderOut}
    (h : decoderCycle s rx tick = .ok d) : s.dec.KeepsFlags d.dec := by
  rcases decoderCycle_cases h with ⟨-, rfl⟩ | ⟨b, hb, -, hc⟩ | ⟨-, -, rfl⟩
  · exact Decoder.keepsFlags_of_eq rfl rfl
  · obtain ⟨-, -, -, -, -, -, -, -, ⟨-, hdone, hresult⟩ | ⟨-, -, -, hdone, hresult⟩⟩ := consume_frame hb hc
    · exact Decoder.keepsFlags_of_eq hdone hresult
    · exact Decoder.keepsFlags_of_finished hdone (by simp [hresult])
  · obtain ⟨-, -, -, -, -, -, -, -, ⟨-, hdone, hresult⟩ | ⟨-, -, hdone, hresult⟩, -⟩ := silent_frame s tick
    · exact Decoder.keepsFlags_of_eq hdone hresult
    · exact Decoder.keepsFlags_of_finished hdone (by simp [hresult])

section
variable {s t : State} (h : step s = .next t) (hr : (currentInput s).rst = false)
include h hr

/-- `ENC_DONE` stays set in a cycle without reset that accepts no `ENCODE`. -/
theorem step_keeps_enc_done (hno : ¬ (decode (currentInput s).bus = .ok .encode ∧ s.enc.busy = false)) (hdone : s.enc.done = true) :
    t.enc.done = true := by
  obtain ⟨u, d, hu, -, rfl⟩ := step_parts_of_not_rst h hr
  rw [assemble_enc]
  split
  · exact encoderCycle_keeps_done hdone _
  · next hidle => rwa [hostAccess_enc_of_not_encode hu fun hi => hno ⟨hi, Bool.eq_false_iff.mpr hidle⟩]

/-- The decoder's completion flags stay set in a cycle without reset that accepts no read command. -/
theorem step_keepsFlags (hno : ¬ ∃ i, decode (currentInput s).bus = .ok i ∧ i.IsRead ∧ s.dec.state = .idle) :
    s.dec.KeepsFlags t.dec := by
  obtain ⟨u, d, hu, hd, rfl⟩ := step_parts_of_not_rst h hr
  by_cases hidle : s.dec.state = .idle
  · have hnotRead : ∀ i, i.IsRead → decode (currentInput s).bus ≠ .ok i := fun i hread hi => hno ⟨i, hi, hread, hidle⟩
    have hudec : u.dec = s.dec :=
      hostAccess_dec_of_not_read hu (hnotRead _ (.inl rfl)) (hnotRead _ (.inr (.inl rfl))) (hnotRead _ (.inr (.inr rfl)))
    rw [assemble_dec, (Decoder.busy_eq_false_iff _).mpr hidle, if_neg Bool.false_ne_true, hudec]
    exact Decoder.keepsFlags_of_eq rfl rfl
  · rw [assemble_dec_of_running hidle]
    exact decoderCycle_keepsFlags hd

end

end Sys2Proof.Machine

namespace Sys2Proof.Proofs

open Sys2Proof Sys2Proof.Machine

/-- Settles O16: a command's effect on the units and on `REJ`, and the frame it keeps. -/
theorem commandsChangeOnlyTheirUnit : Obligations.CommandsChangeOnlyTheirUnit := by
  unfold Obligations.CommandsChangeOnlyTheirUnit
  intro i s t h
  obtain ⟨hregs, hsink, hparams, hdraws, henv, hbuf⟩ := exec_frame h
  rw [exec_enc h, exec_dec h]
  obtain ⟨hparam, hcode, htmp, hacc⟩ := decoderAfterCommand_received i s
  refine ⟨hregs, hsink, hparams, hdraws, henv, bufByte_congr hbuf hparams, ?_, ?_, hparam, hcode, htmp, hacc, ?_⟩
  · exact fun hi => if_neg fun hencode => hi hencode.1
  · exact fun hresp hdbuf hstream => decoderAfterCommand_of_not_read (by simp [hresp, hdbuf, hstream]) s
  · exact fun hi hrej => (exec_rej h).mpr (.inr ⟨hrej, hi⟩)

/-- Settles O19: each command only gives `REJ` a value, and the write that is no command stores nothing. -/
theorem commandCycleAgainstIdleCycle : Obligations.CommandCycleAgainstIdleCycle := by
  unfold Obligations.CommandCycleAgainstIdleCycle
  intro s t alow junk h
  have hrefused {i : Instr} (hi : Refused i s) : step (presentAccess s (encodeWith i alow junk)) = .next { t with rej := true } :=
    step_command_rej h (exec_of_refused hi) alow junk
  have hnop : step (presentAccess s (encodeWith .nop alow junk)) = .next { t with rej := s.rej } :=
    step_command_rej h rfl alow junk
  obtain ⟨-, hrej, -⟩ := step_idle_frame h
  refine ⟨?_, hrefused (.inl rfl), hrefused (.inr (.inl rfl)), hrefused (.inr (.inr (.inl rfl))),
    step_command_rej h rfl alow junk, ?_, ?_, ?_⟩
  · rw [hnop, ← hrej]
  · exact step_status_without_clear h (place_status alow)
  · exact fun hb => hrefused (.encode hb)
  · exact fun hb i hi => hrefused (.read hi hb)

/-- Settles O27: only the host's access writes `REJ`, and only a refused command sets it. -/
theorem rejRisesOnlyOnARefusedCommand : Obligations.RejRisesOnlyOnARefusedCommand := by
  unfold Obligations.RejRisesOnlyOnARefusedCommand
  intro s t h hr hclear hset
  obtain ⟨u, d, hu, -, rfl⟩ := step_parts_of_not_rst h hr
  rw [assemble_rej] at hset
  rcases hostAccess_cases hu with ⟨i, hi, hx⟩ | ⟨-, rfl⟩
  · exact ⟨i, hi, ((exec_rej hx).mp hset).resolve_right fun hkept => Bool.false_ne_true (hclear.symm.trans hkept.1)⟩
  · exact absurd (hclear.symm.trans hset) Bool.false_ne_true

/-- Settles O28: without an accepted command to a unit its flags stay set. -/
theorem doneFlagsClearedOnlyByNextCommand : Obligations.DoneFlagsClearedOnlyByNextCommand := by
  unfold Obligations.DoneFlagsClearedOnlyByNextCommand
  intro s t h hr
  constructor
  · intro hdone hcleared
    by_contra hno
    exact Bool.false_ne_true (hcleared.symm.trans (step_keeps_enc_done h hr hno hdone))
  · intro hcleared
    by_contra hno
    obtain ⟨hdone, hresult⟩ := step_keepsFlags h hr hno
    rcases hcleared with ⟨hd, hd'⟩ | ⟨hres, hres'⟩
    · exact Bool.false_ne_true (hd'.symm.trans (hdone hd))
    · exact hresult hres hres'

/-- Settles O7: the meaning of `NOP` is the state itself. -/
theorem nopChangesNothing : Obligations.NopChangesNothing := by
  unfold Obligations.NopChangesNothing
  exact fun _ => rfl

/-- Settles O8: a reserved command is refused in every state. -/
theorem reservedCommandsSetRejOnly : Obligations.ReservedCommandsSetRejOnly := by
  unfold Obligations.ReservedCommandsSetRejOnly
  exact fun _ => ⟨exec_of_refused (.inl rfl), exec_of_refused (.inr (.inl rfl)), exec_of_refused (.inr (.inr (.inl rfl)))⟩

/-- Settles O9: the meaning of `CLR_REJ` is the state with `REJ` cleared. -/
theorem clrRejClearsRejOnly : Obligations.ClrRejClearsRejOnly := by
  unfold Obligations.ClrRejClearsRejOnly
  exact fun _ => rfl

/-- Settles O12: a command to a busy unit is refused. -/
theorem busyUnitRejectsCommand : Obligations.BusyUnitRejectsCommand := by
  unfold Obligations.BusyUnitRejectsCommand
  intro s
  have hread {i : Instr} (hi : i.IsRead) (hb : s.dec.state ≠ .idle) : exec i s = .next { s with rej := true } :=
    exec_of_refused (.read hi hb)
  exact ⟨fun hb => exec_of_refused (.encode hb),
    fun hb => ⟨hread (.inl rfl) hb, hread (.inr (.inl rfl)) hb, hread (.inr (.inr rfl)) hb⟩⟩

end Sys2Proof.Proofs
end

section
/-! Exceptions (R700 to R730): the codec has none. A command, and from a state that meets the invariant a cycle, answers a next
state, and the obligations that follow. -/

namespace Sys2Proof.Machine

/-- Each outcome `exec_cases` lists is a next state: the refusal of a busy unit's or a reserved command too (R605, R610, R700). -/
theorem exec_next (i : Instr) (s : State) : ∃ t, exec i s = .next t := by
  rcases exec_cases i s with ⟨-, hnop⟩ | ⟨-, hrefused⟩ | ⟨-, hclear⟩ | ⟨-, -, hencode⟩ | ⟨-, -, hresp⟩ | ⟨-, -, -, hbadlen⟩ |
    ⟨-, -, -, hbuf⟩ | ⟨-, -, hstream⟩
  · exact ⟨_, hnop⟩
  · exact ⟨_, hrefused⟩
  · exact ⟨_, hclear⟩
  · exact ⟨_, hencode⟩
  · exact ⟨_, hresp⟩
  · exact ⟨_, hbadlen⟩
  · exact ⟨_, hbuf⟩
  · exact ⟨_, hstream⟩

end Sys2Proof.Machine

namespace Sys2Proof.Proofs

open Sys2Proof Sys2Proof.Machine

/-- Settles O51: under the invariant no part of a cycle faults, so the cycle runs, and a cycle that runs keeps the invariant. -/
theorem everyCycleKeepsTheInvariant : Obligations.EveryCycleKeepsTheInvariant := by
  unfold Obligations.EveryCycleKeepsTheInvariant
  intro s hinv
  obtain ⟨t, ht⟩ := step_next_of_inv hinv
  exact ⟨t, ht, step_keeps_inv hinv ht⟩

/-- Settles O17: whatever a command does, it answers a next state. -/
theorem everyCommandCompletes : Obligations.EveryCommandCompletes := by
  unfold Obligations.EveryCommandCompletes
  exact exec_next

end Sys2Proof.Proofs
end

section
/-! Reset (R3, R801): the reset columns in the terms of the obligations, that the OPEN parameters are legal, and the obligations that
follow. -/

namespace Sys2Proof

/-- Whatever the OPEN capacity is, it is a legal one (R3). -/
theorem Config.params_wf : Config.params.wf := by
  have hcap := Config.bufBytesAbove24.isLt
  simp only [Config.params, Params.wf]
  omega

end Sys2Proof

namespace Sys2Proof.Machine

/-- The whole `STATUS` word is 0 in the cycle after a reset (R801). -/
theorem statusValue_resetCycle (s : State) (inp : CycleIn) : statusValue (resetCycle s inp) = 0 := by
  simp only [statusValue, resetCycle_enc, resetCycle_dec, resetCycle_rej]
  decide

/-- R130's reset column, byte by byte of the frame. -/
theorem Encoder.reset_frame (i : Fin 12) : Encoder.reset.frame[i] = 0 := by
  simp [Encoder.reset]

/-- For every legal choice of parameters the machine right after reset meets the invariant (R130, R131, R801). -/
theorem State.resetWith_inv {p : Params} (hp : p.wf) : (State.resetWith p).Inv where
  params := hp
  enc := Encoder.reset_inv
  dec := Decoder.reset_inv _
  buf_wf := Memory.wf_nil
  buf_bound := by simp [State.resetWith]
  sink_empty := fun _ => rfl

end Sys2Proof.Machine

namespace Sys2Proof.Proofs

open Sys2Proof Sys2Proof.Machine

/-- Settles O1: the cycle is `resetCycle`, whose parts are the reset columns; it writes neither `BUF` nor the parameters. -/
theorem resetCycleForcesResetValues : Obligations.ResetCycleForcesResetValues := by
  unfold Obligations.ResetCycleForcesResetValues
  intro s hrst
  have hbuf : ∀ i, bufByte (resetCycle s (currentInput s)) i = bufByte s i :=
    bufByte_congr (resetCycle_buf _ _) (resetCycle_params _ _)
  refine ⟨_, step_of_rst hrst, statusValue_resetCycle _ _, resetCycle_rej _ _, rfl, rfl, rfl, Encoder.reset_frame, ?_⟩
  simp [Decoder.reset, SinkReg.empty, HostRegs.reset, envAfterReset, CycleOut.zero, hbuf]

/-- Settles O2: the OPEN parameters are legal, and an idle decoder claims nothing of the running checksum. -/
theorem resetStateMeetsInvariants : Obligations.ResetStateMeetsInvariants := by
  unfold Obligations.ResetStateMeetsInvariants
  exact ⟨State.resetWith_inv Config.params_wf, .of_idle_or_seek (.inl rfl)⟩

end Sys2Proof.Proofs
end
